-- ==== Sys2Proof/Word.lean ====
section
/-! DEFINITION. The plain types of the MC-412 model: bytes, addresses, the numbers that name a channel, a queue, a slot, a step or a sense line, and tables of a fixed number of like things. -/

namespace Sys2Proof

abbrev Byte := BitVec 8

/-- A 64-bit address of system memory (00, section 0.5.1). -/
abbrev Addr := BitVec 64

/-- Channels C0 to C3. -/
abbrev ChannelId := Fin 4

/-- SQ0 to SQ7, or CQ0 to CQ7. -/
abbrev QueueId := Fin 8

/-- The sixteen slots of the command table. -/
abbrev SlotId := Fin 16

/-- Bank entries, and so steps, 0 to 15. -/
abbrev StepIx := Fin 16

/-- Sense lines S0, S1, S2. -/
abbrev LineId := Fin 3

/-- A level on a line. -/
inductive Level where
  | low
  | high
  deriving DecidableEq, Repr

def Level.flip : Level → Level
  | .low => .high
  | .high => .low

/-- A fixed number of like things, read and written by index. -/
abbrev Table (n : Nat) (α : Type) := Vector α n

def Table.fill (n : Nat) {α : Type} (a : α) : Table n α := Vector.replicate n a

def Table.read {n : Nat} {α : Type} (t : Table n α) (i : Fin n) : α := t[i.val]

def Table.write {n : Nat} {α : Type} (t : Table n α) (i : Fin n) (a : α) : Table n α := t.set i.val a

def Table.map {n : Nat} {α β : Type} (f : α → β) (t : Table n α) : Table n β := Vector.map f t

@[simp] theorem Table.read_map {n : Nat} {α β : Type} (f : α → β) (t : Table n α) (i : Fin n) :
    Table.read (Table.map f t) i = f (Table.read t i) := by
  simp [Table.read, Table.map]

@[simp] theorem Table.read_fill {n : Nat} {α : Type} (a : α) (i : Fin n) :
    Table.read (Table.fill n a) i = a := by
  simp [Table.read, Table.fill]

@[simp] theorem Table.read_write_self {n : Nat} {α : Type} (t : Table n α) (i : Fin n) (a : α) :
    Table.read (Table.write t i a) i = a := by
  simp [Table.read, Table.write]

theorem Table.read_write {n : Nat} {α : Type} (t : Table n α) (i j : Fin n) (a : α) :
    Table.read (Table.write t i a) j = if j = i then a else Table.read t j := by
  simp only [Table.read, Table.write, Vector.getElem_set, Fin.ext_iff, eq_comm]

@[simp] theorem Table.read_write_ne {n : Nat} {α : Type} (t : Table n α) (i j : Fin n) (a : α)
    (h : j ≠ i) : Table.read (Table.write t i a) j = Table.read t j := by
  rw [Table.read_write, if_neg h]

/-- Two tables that read the same are the same. -/
theorem Table.ext_read {n : Nat} {α : Type} {t u : Table n α}
    (h : ∀ i : Fin n, Table.read t i = Table.read u i) : t = u :=
  Vector.ext fun i hi => h ⟨i, hi⟩

@[simp] theorem Table.write_read_self {n : Nat} {α : Type} (t : Table n α) (i : Fin n) :
    Table.write t i (Table.read t i) = t :=
  Table.ext_read fun j => by
    rw [Table.read_write]
    split
    · rename_i h; rw [h]
    · rfl

@[simp] theorem Table.write_write {n : Nat} {α : Type} (t : Table n α) (i : Fin n) (a b : α) :
    Table.write (Table.write t i a) i b = Table.write t i b :=
  Table.ext_read fun j => by
    simp only [Table.read_write]
    split <;> rfl

end Sys2Proof
end

