-- ==== Sys2Proof/Syntax.lean ====
section
/-! DEFINITION. The commands of the MC-412: one constructor for each row of spec/opcode_table.json, with the row's operands. -/

namespace Sys2Proof

/-- Who handed the bus master port a transaction (R159).
A snapshot write is named by the slot of its READ_CHANNEL, since several may be in flight (R117). -/
inductive Requester where
  | fetch (q : QueueId)
  | load (c : ChannelId)
  | snapshot (k : SlotId)
  | cqWrite (q : QueueId)
  deriving DecidableEq, Repr

/-- The five admin ring registers (R175). -/
inductive AdminRegister where
  | sqBaseLow
  | sqBaseHigh
  | cqBaseLow
  | cqBaseHigh
  | sizes
  deriving DecidableEq, Repr

/-- The commands the part takes.
The first sixteen are the return of a fetch read with a command record, dispatched to its owner (R100, R131);
their operands are the record's fields at the widths of R186, unchecked, and the fields the command does not read are not operands (R99).
The others are cancel requests, answers of system memory, events the part or the board brings about, and register writes. -/
inductive Instr where
  | loadSteps (tag : BitVec 16) (channel first count : Byte) (clearRest : Bool) (source : Addr)
  | commitSteps (tag : BitVec 16) (channel : Byte)
  | start (tag : BitVec 16) (channel : Byte) (reference : BitVec 16)
  | stop (tag : BitVec 16) (channel mode : Byte) (deadline : BitVec 16)
  | advance (tag : BitVec 16) (channel : Byte)
  | clearFault (tag : BitVec 16) (channel : Byte)
  | setDuty (tag : BitVec 16) (channel : Byte) (duty : BitVec 16)
  | readChannel (tag : BitVec 16) (channel : Byte) (destination : Addr)
  | openSq (tag : BitVec 16) (queue boundCq priority : Byte) (size : BitVec 16) (base : Addr)
  | closeSq (tag : BitVec 16) (queue : Byte)
  | openCq (tag : BitVec 16) (queue vector threshold time : Byte) (size : BitVec 16) (base : Addr)
  | closeCq (tag : BitVec 16) (queue : Byte)
  | setWindow (tag : BitVec 16) (number rights : Byte) (length : BitVec 32) (base : Addr)
  | setChannel (tag : BitVec 16) (channel prescale shift forcedLimit filter tripLevel reportCq : Byte)
      (minInterval period : BitVec 16)
  | cancel (tag : BitVec 16) (queue : Byte) (target : BitVec 16)
  | unknownCommand (tag : BitVec 16) (code : Byte)
  /-- The owner takes the cancel request of the CANCEL in slot `canceller` (R112). -/
  | cancelRequest (canceller : SlotId)
  | fetchStart
  | fetchReadError
  | adminFetchError
  /-- The sixteen bytes a load read returned, by offset (R185). -/
  | loadRecordArrival (c : ChannelId) (bytes : Table 16 Byte)
  | loadReadBusError (c : ChannelId)
  | portBeginTransaction
  | snapshotWriteDone (k : SlotId)
  | snapshotWriteError (k : SlotId)
  | cqWriteDone (q : QueueId)
  | cqWriteError (q : QueueId)
  | adminWriteError
  | discardedTransactionEnd (r : Requester)
  | coalescingTimerExpiry (q : QueueId)
  | blankEnd (c : ChannelId)
  | timeout (c : ChannelId)
  | delayEnd (c : ChannelId)
  | lengthEnd (c : ChannelId)
  | hostLimitExpiry (c : ChannelId)
  | deadline (c : ChannelId)
  | spanCounterSaturation (c : ChannelId)
  /-- A sample of the three sense lines at the given levels (R72, R75); the run counts say whether it makes an edge. -/
  | senseEdge (c : ChannelId) (sample : Table 3 Level)
  /-- A sample of the trip line at the given level (R76, R77). -/
  | trip (c : ChannelId) (sample : Level)
  | periodStart (c : ChannelId)
  | post (q : QueueId) (tail : BitVec 10)
  | release (q : QueueId) (head : BitVec 10)
  | vectorStatus (clear : BitVec 4)
  | vectorMask (mask : BitVec 4)
  | adminRegisterWrite (r : AdminRegister) (value : BitVec 32)
  | registerWriteIgnored (offset : BitVec 6) (value : BitVec 32)
  | enable
  | halt
  | haltEnd
  /-- SOFT_RESET written as 1; `run` is the RUN field of the same write, which has no effect (R172). -/
  | softReset (run : Bool)
  | powerOnReset
  | pinReset
  | tick (c : ChannelId)
  | resetPinRelease
  deriving DecidableEq, Repr

end Sys2Proof
end

