-- ==== Sys2Proof/WellFormed.lean ====
section
/-! DEFINITION. Which command terms a sender can spell: the checks that a term's operands do not belong to another row. -/

namespace Sys2Proof

/-- The fifteen command codes of R186. -/
def commandCodes : List Byte :=
  [0x01, 0x02, 0x03, 0x04, 0x05, 0x06, 0x07, 0x10, 0x11, 0x12, 0x13, 0x14, 0x15, 0x16, 0x17]

/-- Whether a command code is one of the fifteen commands (R99, R100). -/
def isCommandCode (code : Byte) : Bool := commandCodes.contains code

/-- Whether a write at this offset of the register window is ignored whatever the state (R188):
it is the offset of an aligned word that is ENGINE_STATUS or holds no register. -/
def isIgnoredOffset (offset : BitVec 6) : Bool :=
  offset.toNat % 4 == 0 && (offset == 0x04 || decide (0x2C ≤ offset.toNat))

/-- A term is well formed when a sender can spell it.
An unknown command carries an unknown code (R100), the failed ring write of CQ0 is the row ADMIN_WRITE_ERROR (R154),
and an ignored register write names an offset whose writes are ignored (R188).
Every other term can be spelled. -/
def Instr.wellFormed : Instr → Bool
  | .unknownCommand _ code => !isCommandCode code
  | .cqWriteError q => q != 0
  | .registerWriteIgnored offset _ => isIgnoredOffset offset
  | _ => true

end Sys2Proof
end

