-- ==== Sys2Proof/Decode.lean ====
section
/-! DEFINITION. From the words of the sender to commands: the command record of R186, the register write of R188, and the host's `decodeTableWord` over the rows of the table that give bits (none does). After each decoder stands its encoder. -/

namespace Sys2Proof

/-- Byte `i` of a word, byte 0 the least significant (11: little-endian). -/
def byteAt {n : Nat} (w : BitVec n) (i : Nat) : Byte := w.extractLsb' (8 * i) 8

/-- The 16-bit little-endian field at an offset of a command record. -/
def half (b : Table 32 Byte) (lo hi : Fin 32) : BitVec 16 := b.read hi ++ b.read lo

/-- The 32-bit little-endian field at bytes 20 to 23 (SET_WINDOW's length, R186). -/
def lengthField (b : Table 32 Byte) : BitVec 32 := b.read 23 ++ b.read 22 ++ b.read 21 ++ b.read 20

/-- The 64-bit address field at bytes 8 to 15 (R186). -/
def addressField (b : Table 32 Byte) : Addr :=
  b.read 15 ++ b.read 14 ++ b.read 13 ++ b.read 12 ++ b.read 11 ++ b.read 10 ++ b.read 9 ++ b.read 8

/-- The row a fetched command record is (R99, R186): total, since every code that is none of the fifteen is an unknown command.
Bytes and bits a command does not read are ignored. -/
def commandOfRecord (b : Table 32 Byte) : Instr :=
  let tag := half b 2 3
  let channel := b.read 4
  let address := addressField b
  let p16 := b.read 16
  let p17 := b.read 17
  if b.read 0 = 0x01 then .openSq tag p16 p17 (b.read 18) (half b 20 21) address
  else if b.read 0 = 0x02 then .closeSq tag p16
  else if b.read 0 = 0x03 then .openCq tag p16 p17 (b.read 18) (b.read 19) (half b 20 21) address
  else if b.read 0 = 0x04 then .closeCq tag p16
  else if b.read 0 = 0x05 then .setWindow tag p16 p17 (lengthField b) address
  else if b.read 0 = 0x06 then
    .setChannel tag channel p16 p17 (b.read 18) (b.read 19) (b.read 20) (b.read 21) (half b 22 23) (half b 24 25)
  else if b.read 0 = 0x07 then .cancel tag p16 (half b 18 19)
  else if b.read 0 = 0x10 then .loadSteps tag channel p16 p17 ((b.read 1).getLsbD 0) address
  else if b.read 0 = 0x11 then .commitSteps tag channel
  else if b.read 0 = 0x12 then .start tag channel (half b 16 17)
  else if b.read 0 = 0x13 then .stop tag channel p16 (half b 18 19)
  else if b.read 0 = 0x14 then .advance tag channel
  else if b.read 0 = 0x15 then .clearFault tag channel
  else if b.read 0 = 0x16 then .setDuty tag channel (half b 16 17)
  else if b.read 0 = 0x17 then .readChannel tag channel address
  else .unknownCommand tag (b.read 0)

/-- A command record with its header and parameter bytes from offset 16 on, every other byte 0 (R186). -/
def recordOf (code flags : Byte) (tag : BitVec 16) (channel : Byte) (address : Addr) (p : List Byte) : Table 32 Byte :=
  #v[code, flags, byteAt tag 0, byteAt tag 1, channel, 0, 0, 0,
     byteAt address 0, byteAt address 1, byteAt address 2, byteAt address 3,
     byteAt address 4, byteAt address 5, byteAt address 6, byteAt address 7,
     p.getD 0 0, p.getD 1 0, p.getD 2 0, p.getD 3 0, p.getD 4 0, p.getD 5 0, p.getD 6 0, p.getD 7 0,
     p.getD 8 0, p.getD 9 0, p.getD 10 0, p.getD 11 0, p.getD 12 0, p.getD 13 0, p.getD 14 0, p.getD 15 0]

/-- The command record that spells a command row, its unused bytes 0 (R186); none for the rows that are no fetched record. -/
def recordOfCommand : Instr → Option (Table 32 Byte)
  | .openSq tag queue boundCq priority size base =>
      some (recordOf 0x01 0 tag 0 base [queue, boundCq, priority, 0, byteAt size 0, byteAt size 1])
  | .closeSq tag queue => some (recordOf 0x02 0 tag 0 0 [queue])
  | .openCq tag queue vector threshold time size base =>
      some (recordOf 0x03 0 tag 0 base [queue, vector, threshold, time, byteAt size 0, byteAt size 1])
  | .closeCq tag queue => some (recordOf 0x04 0 tag 0 0 [queue])
  | .setWindow tag number rights length base =>
      some (recordOf 0x05 0 tag 0 base
        [number, rights, 0, 0, byteAt length 0, byteAt length 1, byteAt length 2, byteAt length 3])
  | .setChannel tag channel prescale shift forcedLimit filter tripLevel reportCq minInterval period =>
      some (recordOf 0x06 0 tag channel 0
        [prescale, shift, forcedLimit, filter, tripLevel, reportCq, byteAt minInterval 0, byteAt minInterval 1,
         byteAt period 0, byteAt period 1])
  | .cancel tag queue target => some (recordOf 0x07 0 tag 0 0 [queue, 0, byteAt target 0, byteAt target 1])
  | .loadSteps tag channel first count clearRest source =>
      some (recordOf 0x10 (if clearRest then 1 else 0) tag channel source [first, count])
  | .commitSteps tag channel => some (recordOf 0x11 0 tag channel 0 [])
  | .start tag channel reference =>
      some (recordOf 0x12 0 tag channel 0 [byteAt reference 0, byteAt reference 1])
  | .stop tag channel mode deadline =>
      some (recordOf 0x13 0 tag channel 0 [mode, 0, byteAt deadline 0, byteAt deadline 1])
  | .advance tag channel => some (recordOf 0x14 0 tag channel 0 [])
  | .clearFault tag channel => some (recordOf 0x15 0 tag channel 0 [])
  | .setDuty tag channel duty => some (recordOf 0x16 0 tag channel 0 [byteAt duty 0, byteAt duty 1])
  | .readChannel tag channel destination => some (recordOf 0x17 0 tag channel destination [])
  | .unknownCommand tag code => some (recordOf code 0 tag 0 0 [])
  | _ => none

/-- The row a host write to the register window is (R172, R188), or none when the access is not an aligned word.
Bits outside the fields of the register are ignored. -/
def registerWrite (offset : BitVec 6) (w : BitVec 32) : Option Instr :=
  if offset.toNat % 4 ≠ 0 then none
  else if offset = 0x00 then
    some (if w.getLsbD 1 then .softReset (w.getLsbD 0) else if w.getLsbD 0 then .enable else .halt)
  else if offset = 0x08 then some (.adminRegisterWrite .sqBaseLow w)
  else if offset = 0x0C then some (.adminRegisterWrite .sqBaseHigh w)
  else if offset = 0x10 then some (.adminRegisterWrite .cqBaseLow w)
  else if offset = 0x14 then some (.adminRegisterWrite .cqBaseHigh w)
  else if offset = 0x18 then some (.adminRegisterWrite .sizes w)
  else if offset = 0x1C then some (.post (Fin.ofNat 8 w.toNat) (w.extractLsb' 16 10))
  else if offset = 0x20 then some (.release (Fin.ofNat 8 w.toNat) (w.extractLsb' 16 10))
  else if offset = 0x24 then some (.vectorStatus (w.extractLsb' 0 4))
  else if offset = 0x28 then some (.vectorMask (w.extractLsb' 0 4))
  else some (.registerWriteIgnored offset w)

/-- A register write that spells a register row, its unused bits 0 (R188); none for the rows that are no register write. -/
def registerWordOf : Instr → Option (BitVec 6 × BitVec 32)
  | .enable => some (0x00, 1)
  | .halt => some (0x00, 0)
  | .softReset run => some (0x00, if run then 3 else 2)
  | .adminRegisterWrite .sqBaseLow v => some (0x08, v)
  | .adminRegisterWrite .sqBaseHigh v => some (0x0C, v)
  | .adminRegisterWrite .cqBaseLow v => some (0x10, v)
  | .adminRegisterWrite .cqBaseHigh v => some (0x14, v)
  | .adminRegisterWrite .sizes v => some (0x18, v)
  | .post q tail => some (0x1C, BitVec.ofNat 32 (q.val + 65536 * tail.toNat))
  | .release q head => some (0x20, BitVec.ofNat 32 (q.val + 65536 * head.toNat))
  | .vectorStatus clear => some (0x24, clear.setWidth 32)
  | .vectorMask mask => some (0x28, mask.setWidth 32)
  | .registerWriteIgnored offset v => some (offset, v)
  | _ => none

/-- The command a table word spells. No row of spec/opcode_table.json gives bits, so no word spells one. -/
def decodeTableWord (_nbits _w : Nat) : Option Instr := none

end Sys2Proof
end

