-- ==== Sys2Proof/Config.lean ====
section
/-! DEFINITION. What an implementation fixes, and the free orders: constants with no body, of which nothing can be proved but that they are some value. -/

namespace Sys2Proof

/-- What one system clock reaches in the part, one entry for each counter or sampled line:
the trip sample of a channel (R76), the sample of the three sense lines (R72, R75), the PWM period counter (R67),
the tick divider (R48) and the engine timebase (R151). -/
inductive ClockEvent where
  | tripSample (c : ChannelId)
  | senseSample (c : ChannelId)
  | pwmClock (c : ChannelId)
  | dividerClock (c : ChannelId)
  | timebase
  deriving DecidableEq, Repr

/-- System clocks in one tick of the 1 microsecond engine timebase.
DEDUCED from 00 section 0.5.1: the system clock is 40 MHz nominal and the timebase is derived from it. -/
def Config.clocksPerMicrosecond : Nat := 40

/-- The order in which the events of the n-th system clock are taken.
The spec says of any two of them that either may be taken first (R47, R52, R69, R70, R77, R89), so the order is free. -/
opaque Config.clockOrder : Nat → List ClockEvent

/-- Whether a deadline found at the same tick as another window of the step is taken before it (R85: either may be first). -/
opaque Config.deadlineFirst : Nat → Bool

end Sys2Proof
end

