-- ==== Sys2Proof/Machine/State.lean ====
section
/-! DEFINITION. The state of the MC-412 as plain data, block by block, and the state after reset. Quantities the spec counts are natural numbers, kept in their ranges by the operations; fields of a word that software sees are bit vectors. -/

namespace Sys2Proof.Machine

/-! ### Step records and banks (chapter 1) -/

/-- Leg states (R5). -/
inductive LegState where
  | float
  | upperOn
  | lowerOn
  | upperPwm
  | lowerPwm
  | pairPwm
  deriving DecidableEq, Repr

/-- The three legs of a channel (R1, R65). -/
structure Legs where
  a : LegState
  b : LegState
  c : LegState
  deriving DecidableEq, Repr

/-- Edge kinds of a SENSED record (R3, R28). -/
inductive EdgeKind where
  | rising
  | falling
  | either
  deriving DecidableEq, Repr

/-- The mode of a record with the fields of that mode alone (R3, R4). -/
inductive StepMode where
  | sensed (line : LineId) (edge : EdgeKind) (blank delay timeout : Nat)
  | timed (duration : Nat)
  | scaled (factor : Nat)
  | hosted (limit : Nat)
  deriving DecidableEq, Repr

/-- A branch: its target and its count, 1 to 255 (R2). -/
structure Branch where
  target : StepIx
  count : Nat
  deriving DecidableEq, Repr

/-- A step record as a bank holds it (R1 to R4, R185). -/
structure StepRecord where
  mode : StepMode
  legs : Legs
  next : StepIx
  report : Bool
  seed : Bool
  mark : Bool
  branch : Option Branch
  duty : Option Nat
  deriving DecidableEq, Repr

/-- A bank of sixteen entries, each absent or a record (01, section 1.4). -/
abbrev Bank := Table 16 (Option StepRecord)

/-- The state a standby bank returns to when its load does not complete (R8). -/
inductive Prior where
  | empty
  | ready
  deriving DecidableEq, Repr

/-- A load in flight (R11, R12): its command, and the load buffer with the records read so far. -/
structure Load where
  slot : SlotId
  first : Nat
  count : Nat
  clearRest : Bool
  source : Addr
  prior : Prior
  buffer : List StepRecord
  deriving DecidableEq, Repr

/-- The standby bank's state (R8).
LOADING holds the load in flight, SWAP_PENDING the slot of the COMMIT_STEPS that waits. -/
inductive Standby where
  | empty
  | loading (load : Load)
  | ready
  | swapPending (slot : SlotId)
  deriving DecidableEq, Repr

/-- The step store of a channel (R7, R8). -/
structure StepStore where
  banks : Table 2 Bank
  active : Fin 2
  activeValid : Bool
  standby : Standby
  deriving DecidableEq, Repr

/-! ### The channel sequencer (chapters 2 and 5) -/

/-- The causes that hold a channel in FAULT (R88); NONE is the absence of a fault. -/
inductive FaultCause where
  | trip
  | lostSense
  | overspeed
  | hostTimeout
  | engine
  deriving DecidableEq, Repr

/-- The graceful-stop record while a stop is pending (05, section 5.1): deadline, deadline count, and the slot of the pending STOP. -/
structure Graceful where
  deadline : Nat
  count : Nat
  slot : SlotId
  deriving DecidableEq, Repr

/-- The channel state (R20).
A graceful stop is pending exactly while the channel is STOPPING (05, section 5.1), and a fault cause other than NONE is held exactly in FAULT (R88). -/
inductive ChannelState where
  | idle
  | running
  | stopping (stop : Graceful)
  | fault (cause : FaultCause)
  deriving DecidableEq, Repr

/-- Why a step was left by advance (R38, R184). -/
inductive AdvanceCause where
  | sensed
  | forced
  | timed
  | scaled
  | hosted
  deriving DecidableEq, Repr

/-- The windows of a step, in ticks, as computed at its entry (R27); those the mode does not use are 0. -/
structure Windows where
  blankEnd : Nat
  delay : Nat
  timeout : Nat
  length : Nat
  hostLimit : Nat
  deriving DecidableEq, Repr

/-- A notice not yet accepted: its cause and the CQ it waits for (R93, R94); the new state it carries is always FAULT. -/
structure HeldNotice where
  cause : FaultCause
  cq : QueueId
  deriving DecidableEq, Repr

/-- The channel context the sequencer keeps (02, section 2.1). -/
structure Sequencer where
  state : ChannelState
  currentStep : StepIx
  windows : Windows
  /-- The blank end of the current step has been found (R51), so its edges are delivered (R74). -/
  blankFound : Bool
  edgeTaken : Bool
  /-- The step timer's value at the taken edge, from which R51 measures the delay. -/
  edgeTimer : Nat
  edgeSpan : Option Nat
  loopOwner : Option StepIx
  loopCounter : Nat
  cycle : Nat
  held : Option HeldNotice
  lost : Nat
  deriving DecidableEq, Repr

/-! ### Estimator, PWM generator, sense front end, settings (chapters 3 and 4, R114) -/

/-- The estimator, with the step timer and the tick divider; a divider of none is stopped (R48, R63). -/
structure Estimator where
  divider : Option Nat
  stepTimer : Nat
  spanCounter : Nat
  spanValid : Bool
  reference : Nat
  forcedCount : Nat
  deriving DecidableEq, Repr

/-- The duty override of the current step (04, section 4.2). -/
inductive DutyOverride where
  | none
  | staged (duty : Nat)
  | inForce (duty : Nat)
  deriving DecidableEq, Repr

/-- The PWM generator (R67); its period is a setting and its wave follows from the counter and the period duty. -/
structure Pwm where
  counter : Nat
  duty : Nat
  shadow : Option Nat
  override : DutyOverride
  periodDuty : Nat
  deriving DecidableEq, Repr

/-- The sense front end (R72, R76): accepted levels and run counts, and the levels the board drives. -/
structure Sense where
  accepted : Table 3 Level
  runs : Table 3 Nat
  pins : Table 3 Level
  tripLine : Level
  deriving DecidableEq, Repr

/-- The eight settings of a channel (R114); the sense filter is held as its setting, 0 to 3. -/
structure Settings where
  prescale : Nat
  shift : Nat
  forcedLimit : Nat
  minInterval : Nat
  period : Nat
  filter : Nat
  tripLevel : Level
  reportCq : Option QueueId
  deriving DecidableEq, Repr

/-- One channel: its blocks in the order of the block overview (00). -/
structure Channel where
  seq : Sequencer
  store : StepStore
  est : Estimator
  legs : Legs
  pwm : Pwm
  sense : Sense
  settings : Settings
  deriving DecidableEq, Repr

/-! ### The command table (chapter 6) -/

/-- The fifteen commands and the unknown codes (R186). -/
inductive CommandCode where
  | openSq
  | closeSq
  | openCq
  | closeCq
  | setWindow
  | setChannel
  | cancel
  | loadSteps
  | commitSteps
  | start
  | stop
  | advance
  | clearFault
  | setDuty
  | readChannel
  | unknown (code : Byte)
  deriving DecidableEq, Repr

/-- The blocks that own commands (R99). -/
inductive Owner where
  | stepStore
  | sequencer
  | pwm
  | commandTable
  | fetchUnit
  | completionWriter
  | windowChecker
  deriving DecidableEq, Repr

/-- What a WORKING slot holds (R106). -/
structure Working where
  age : Nat
  sq : QueueId
  cq : QueueId
  code : CommandCode
  tag : BitVec 16
  channel : Byte
  owner : Owner
  deriving DecidableEq, Repr

/-- A slot of the command table (R106). -/
inductive Slot where
  | free
  | fetching (age : Nat) (sq cq : QueueId)
  | working (w : Working)
  deriving DecidableEq, Repr

/-- A cancel request handed to an owner and not yet taken (R112), tied to the fetch that filled the target's slot. -/
structure CancelRequest where
  canceller : SlotId
  target : SlotId
  targetAge : Nat
  deriving DecidableEq, Repr

/-! ### The fetch unit (chapter 7) -/

/-- The state of a submission queue (R120).
CLOSING holds the slot of the CLOSE_SQ that waits, or none once it has been discarded (R136). -/
inductive SqState where
  | closed
  | opened
  | closing (closer : Option SlotId)
  | broken
  deriving DecidableEq, Repr

/-- A queue's priority class (R120). -/
inductive Priority where
  | admin
  | level (n : Fin 4)
  deriving DecidableEq, Repr

/-- A submission queue context (R120). -/
structure SqContext where
  state : SqState
  base : Addr
  size : Nat
  head : Nat
  tail : Nat
  boundCq : Option QueueId
  priority : Priority
  deriving DecidableEq, Repr

/-- The fetch record while a fetch read is outstanding (R120, R130), with the slot the fetch took. -/
structure FetchRecord where
  sq : QueueId
  index : Nat
  slot : SlotId
  deriving DecidableEq, Repr

/-! ### The completion writer and vector unit (chapter 8) -/

/-- The status codes of R104. -/
inductive Status where
  | success
  | invalidOpcode
  | invalidField
  | invalidQueue
  | invalidChannel
  | adminOnly
  | stateConflict
  | invalidStep
  | accessDenied
  | busError
  | aborted
  | overtaken
  | channelFault
  | deadline
  | tripActive
  | notFound
  | notCancelable
  deriving DecidableEq, Repr

/-- Queue kinds of a queue notice (R148). -/
inductive QueueKind where
  | sq
  | cq
  deriving DecidableEq, Repr

/-- Causes of a queue notice (R148). -/
inductive NoticeCause where
  | sqFetchError
  | badPost
  | cqWriteError
  | badRelease
  deriving DecidableEq, Repr

/-- What a step report says of its advance, but for the lost count (R43). -/
structure Report where
  channel : ChannelId
  stepLeft : StepIx
  bank : Fin 2
  cause : AdvanceCause
  stepEntered : Option StepIx
  reference : Nat
  cycle : Nat
  span : Option Nat
  deriving DecidableEq, Repr

/-- A completion record as accepted (R148), its pass marker not yet filled in. -/
inductive CqRecord where
  | commandDone (tag : BitVec 16) (sq : QueueId) (sqHead : Nat) (status : Status) (detail : Nat)
  | stepReport (report : Report) (lost : Nat)
  | channelNotice (channel : ChannelId) (cause : FaultCause)
  | queueNotice (queue : QueueId) (kind : QueueKind) (cause : NoticeCause)
  deriving DecidableEq, Repr

/-- The state of a completion queue (R139). -/
inductive CqState where
  | closed
  | opened
  | broken
  deriving DecidableEq, Repr

/-- A completion queue context (R139). -/
structure CqContext where
  state : CqState
  base : Addr
  size : Nat
  head : Nat
  tail : Nat
  pass : Bool
  list : List CqRecord
  reserved : Nat
  vector : Option (Fin 4)
  threshold : Nat
  time : Nat
  deriving DecidableEq, Repr

/-- The vector unit (08, section 8.6); a coalescing timer of none is stopped, and `timebase` counts the system clocks of the current microsecond. -/
structure VectorUnit where
  unsignalled : Table 8 Nat
  timers : Table 8 (Option Nat)
  pending : BitVec 4
  mask : BitVec 4
  timebase : Nat
  deriving DecidableEq, Repr

/-! ### The bus master port and the window checker (chapter 9) -/

/-- Directions of access (R163). -/
inductive Direction where
  | read
  | write
  deriving DecidableEq, Repr

/-- A transaction handed to the port (R159).
`bytes` are what a write carries, fixed when it begins; `refused` says that the window checker refused it when it began (R167);
`discarded` says that its result is discarded when it ends, because its command was (R10, R15, R110, R136, R137). -/
structure Transaction where
  requester : Requester
  address : Addr
  bytes : List Byte
  refused : Bool
  discarded : Bool
  deriving DecidableEq, Repr

/-- The bus master port (R160). -/
structure Port where
  requests : List Transaction
  begun : List Transaction
  deriving DecidableEq, Repr

/-- A window (R163); it is enabled while its length is not 0. -/
structure Window where
  base : Addr
  length : Nat
  grantsRead : Bool
  grantsWrite : Bool
  deriving DecidableEq, Repr

/-! ### The engine (chapter 10) -/

/-- Engine states (R171). -/
inductive EngineState where
  | halted
  | running
  | halting
  | fatal
  deriving DecidableEq, Repr

/-- Engine causes (R171). -/
inductive EngineCause where
  | none
  | adminConfig
  | adminFetchError
  | adminWriteError
  deriving DecidableEq, Repr

/-- The kind of the most recent reset (R171). -/
inductive LastReset where
  | powerOn
  | soft
  deriving DecidableEq, Repr

/-- The engine's items and the admin ring registers (R171, R175, R188). -/
structure Engine where
  state : EngineState
  cause : EngineCause
  lastReset : LastReset
  adminSqBase : Addr
  adminCqBase : Addr
  adminSqSize : BitVec 9
  adminCqSize : BitVec 9
  deriving DecidableEq, Repr

/-! ### The part -/

/-- The whole part, the queue of commands that wait, and the counter the free orders of Config are applied to. -/
structure State where
  pending : List Instr
  choice : Nat
  resetPin : Bool
  engine : Engine
  sqs : Table 8 SqContext
  fetch : Option FetchRecord
  lastServed : Table 4 (Option QueueId)
  slots : Table 16 Slot
  nextAge : Nat
  cancels : List CancelRequest
  cqs : Table 8 CqContext
  vectors : VectorUnit
  port : Port
  windows : Table 4 Window
  channels : Table 4 Channel
  deriving DecidableEq, Repr

/-- Why the model stops.
Raised by UNKNOWN_COMMAND, CQ_WRITE_ERROR and REGISTER_WRITE_IGNORED for an operand that belongs to another row of the table,
which no sender can spell (`Instr.wellFormed`): safe, since the model stops where the part would carry out the other row.
The spec names no event that stops the part itself. -/
inductive Fault where
  | illFormed
  deriving DecidableEq, Repr

/-- Why the model has no meaning for a command.
Raised by an arm of `exec` whose command is not modelled yet: safe, since the model stops.
No arm raises it now. -/
inductive Refusal where
  | notModelled (mnemonic : String)
  deriving DecidableEq, Repr

/-! ### Values after reset -/

/-- The step store after reset (R9). -/
def StepStore.reset : StepStore :=
  { banks := Table.fill 2 (Table.fill 16 none), active := 0, activeValid := false, standby := .empty }

/-- The step windows after reset (R22: all 0). -/
def Windows.zero : Windows :=
  { blankEnd := 0, delay := 0, timeout := 0, length := 0, hostLimit := 0 }

/-- The channel context after reset (R22, R98).
DESIGN CHOICE (log entry 15): the model's own `blankFound` and `edgeTimer`, which no reset table names, are false and 0. -/
def Sequencer.reset : Sequencer :=
  { state := .idle, currentStep := 0, windows := Windows.zero, blankFound := false, edgeTaken := false,
    edgeTimer := 0, edgeSpan := none, loopOwner := none, loopCounter := 0, cycle := 0, held := none, lost := 0 }

/-- The measurement state after reset (R63). -/
def Estimator.reset : Estimator :=
  { divider := none, stepTimer := 0, spanCounter := 0, spanValid := false, reference := 1, forcedCount := 0 }

/-- All three legs floating (R66, R79). -/
def Legs.allFloat : Legs := { a := .float, b := .float, c := .float }

/-- The PWM generator after reset (R79). -/
def Pwm.reset : Pwm :=
  { counter := 0, duty := 0, shadow := none, override := .none, periodDuty := 0 }

/-- The sense front end after reset (R79), the board's lines at their levels. -/
def Sense.reset (pins : Table 3 Level) (tripLine : Level) : Sense :=
  { accepted := Table.fill 3 .low, runs := Table.fill 3 0, pins := pins, tripLine := tripLine }

/-- The power-on settings (R114). -/
def Settings.reset : Settings :=
  { prescale := 0, shift := 2, forcedLimit := 3, minInterval := 0, period := 1000, filter := 0,
    tripLevel := .high, reportCq := none }

/-- A channel after reset, the board's lines at their levels. -/
def Channel.reset (pins : Table 3 Level) (tripLine : Level) : Channel :=
  { seq := .reset, store := .reset, est := .reset, legs := .allFloat, pwm := .reset,
    sense := .reset pins tripLine, settings := .reset }

/-- A submission queue after reset and after a halt (R137, R138). -/
def SqContext.reset : SqContext :=
  { state := .closed, base := 0, size := 0, head := 0, tail := 0, boundCq := none, priority := .level 0 }

/-- An I/O completion queue after reset and after a halt (R157, R158). -/
def CqContext.reset : CqContext :=
  { state := .closed, base := 0, size := 0, head := 0, tail := 0, pass := true, list := [], reserved := 0,
    vector := none, threshold := 1, time := 0 }

/-- The completion queues after reset and after a halt (R157, R158).
DEDUCED (log entry 18): CQ0 keeps the vector and coalescing values R140 calls fixed. -/
def resetCqs : Table 8 CqContext :=
  (Table.fill 8 CqContext.reset).write 0 { CqContext.reset with vector := some 0 }

/-- The vector unit after reset (R158). DESIGN CHOICE (log entry 8): the timebase starts a microsecond. -/
def VectorUnit.reset : VectorUnit :=
  { unsignalled := Table.fill 8 0, timers := Table.fill 8 none, pending := 0, mask := 0, timebase := 0 }

/-- The engine after reset (R181, R182). -/
def Engine.reset (lastReset : LastReset) : Engine :=
  { state := .halted, cause := .none, lastReset := lastReset, adminSqBase := 0, adminCqBase := 0,
    adminSqSize := 0, adminCqSize := 0 }

/-- A disabled window (R163). -/
def Window.disabled : Window := { base := 0, length := 0, grantsRead := false, grantsWrite := false }

/-- The machine right after power-on reset (R182), with no command waiting.
DESIGN CHOICE (log entries 6, 14 and 15): the board drives every sense and trip line LOW, the reset pin is released, and the model's counters are 0. -/
def State.reset : State :=
  { pending := [], choice := 0, resetPin := false, engine := .reset .powerOn, sqs := Table.fill 8 .reset,
    fetch := none, lastServed := Table.fill 4 none, slots := Table.fill 16 .free, nextAge := 0, cancels := [],
    cqs := resetCqs, vectors := .reset, port := { requests := [], begun := [] },
    windows := Table.fill 4 .disabled, channels := Table.fill 4 (.reset (Table.fill 3 .low) .low) }

end Sys2Proof.Machine
end

