-- ==== Sys2Proof/Machine/Operands.lean ====
section
/-! DEFINITION. The operand fields of command records: which codes and values name something (R184, R186), and what each command code decides at dispatch (R99, R100). -/

namespace Sys2Proof.Machine

/-- A channel field names C0 to C3; above 3 it names none (R100). -/
def channelOf (b : Byte) : Option ChannelId :=
  if h : b.toNat < 4 then some ⟨b.toNat, h⟩ else none

/-- A queue id field names queue 0 to 7; above 7 it names none (R186). -/
def queueOf (b : Byte) : Option QueueId :=
  if h : b.toNat < 8 then some ⟨b.toNat, h⟩ else none

/-- A field that must name an I/O queue, 1 to 7 (R122, R141). -/
def ioQueueOf (b : Byte) : Option QueueId :=
  match queueOf b with
  | some q => if q = 0 then none else some q
  | none => none

/-- Stop modes (R184). -/
inductive StopMode where
  | immediate
  | atMark
  deriving DecidableEq, Repr

/-- The mode field of STOP; codes 2 to 255 are unused (R81, R186). -/
def stopModeOf (b : Byte) : Option StopMode :=
  if b = 0 then some .immediate else if b = 1 then some .atMark else none

/-- The rights field of SET_WINDOW as READ and WRITE grants; codes 0 and 4 to 255 are unused (R168, R184). -/
def rightsOf (b : Byte) : Option (Bool × Bool) :=
  if b = 1 then some (true, false) else if b = 2 then some (false, true) else if b = 3 then some (true, true) else none

/-- The trip level field of SET_CHANNEL (R184). -/
def tripLevelOf (b : Byte) : Option Level :=
  if b = 0 then some .high else if b = 1 then some .low else none

/-- The report CQ field of SET_CHANNEL: 1 to 7, or 0xFF for NONE (R115, R186). -/
def reportCqOf (b : Byte) : Option (Option QueueId) :=
  if b = 0xFF then some none
  else match ioQueueOf b with
    | some q => some (some q)
    | none => none

/-- The vector field of OPEN_CQ: 0 to 3, or 0xFF for NONE (R141, R186). -/
def vectorOf (b : Byte) : Option (Option (Fin 4)) :=
  if b = 0xFF then some none
  else if h : b.toNat < 4 then some (some ⟨b.toNat, h⟩) else none

/-- The priority class field of OPEN_SQ, 0 to 3 (R122). -/
def priorityOf (b : Byte) : Option Priority :=
  if h : b.toNat < 4 then some (.level ⟨b.toNat, h⟩) else none

/-- The window number of SET_WINDOW, 0 to 3 (R168). -/
def windowOf (b : Byte) : Option (Fin 4) :=
  if h : b.toNat < 4 then some ⟨b.toNat, h⟩ else none

/-- Whether a number lies in an inclusive range. -/
def inRange (lo hi n : Nat) : Bool := decide (lo ≤ n) && decide (n ≤ hi)

/-- The size field of OPEN_SQ and OPEN_CQ, 4 to 1024 (R122, R141). -/
def sizeInRange (n : Nat) : Bool := inRange 4 1024 n

/-- Whether an address is a multiple of `n` bytes. -/
def isAligned (n : Nat) (a : Addr) : Bool := a.toNat % n == 0

/-- The settings a SET_CHANNEL spells, or none when one of them is out of its range (R114, R115 check 1). -/
def settingsOf (prescale shift forcedLimit filter tripLevel reportCq : Byte) (minInterval period : BitVec 16) :
    Option Settings :=
  match tripLevelOf tripLevel, reportCqOf reportCq with
  | some level, some cq =>
    if inRange 0 7 prescale.toNat && inRange 0 4 shift.toNat && inRange 1 15 forcedLimit.toNat &&
        inRange 0 3 filter.toNat && inRange 16 4096 period.toNat then
      some { prescale := prescale.toNat, shift := shift.toNat, forcedLimit := forcedLimit.toNat,
             minInterval := minInterval.toNat, period := period.toNat, filter := filter.toNat,
             tripLevel := level, reportCq := cq }
    else none
  | _, _ => none

/-- The seven commands SQ1 to SQ7 may not carry (R100 check 2). -/
def CommandCode.isAdminOnly : CommandCode → Bool
  | .openSq | .closeSq | .openCq | .closeCq | .setWindow | .setChannel | .cancel => true
  | .loadSteps | .commitSteps | .start | .stop | .advance | .clearFault | .setDuty | .readChannel | .unknown _ => false

/-- The eight channel commands and SET_CHANNEL read the channel field (R99, R100 check 3). -/
def CommandCode.readsChannel : CommandCode → Bool
  | .loadSteps | .commitSteps | .start | .stop | .advance | .clearFault | .setDuty | .readChannel | .setChannel => true
  | .openSq | .closeSq | .openCq | .closeCq | .setWindow | .cancel | .unknown _ => false

/-- Whether the code is none of the fifteen commands (R100 check 1). -/
def CommandCode.isUnknown : CommandCode → Bool
  | .unknown _ => true
  | _ => false

/-- The three commands a CANCEL can end (R111). -/
def CommandCode.isCancelable : CommandCode → Bool
  | .loadSteps | .commitSteps | .stop => true
  | _ => false

/-- LOAD_STEPS and READ_CHANNEL move command data while WORKING (R106, R168 check 2). -/
def CommandCode.movesData : CommandCode → Bool
  | .loadSteps | .readChannel => true
  | _ => false

/-- The block that owns a command (R99, summary table); an unknown code never reaches an owner and ends in the command table. -/
def CommandCode.owner : CommandCode → Owner
  | .loadSteps | .commitSteps => .stepStore
  | .start | .stop | .advance | .clearFault => .sequencer
  | .setDuty => .pwm
  | .openSq | .closeSq => .fetchUnit
  | .openCq | .closeCq => .completionWriter
  | .setWindow => .windowChecker
  | .readChannel | .setChannel | .cancel | .unknown _ => .commandTable

end Sys2Proof.Machine
end

