-- ==== Sys2Proof/Machine/Flags.lean ====
section
/-! DEFINITION. What is read off the state and held nowhere: whether a channel runs, the wave, the gate lines, the trip line, the interrupt lines and the values register reads return. -/

namespace Sys2Proof.Machine

/-- RUNNING or STOPPING: a step is current (R20). -/
def ChannelState.isOn : ChannelState → Bool
  | .running | .stopping _ => true
  | .idle | .fault _ => false

/-- The fault cause held, NONE being none (R88). -/
def ChannelState.cause : ChannelState → Option FaultCause
  | .fault c => some c
  | .idle | .running | .stopping _ => none

/-- The pending graceful stop (05, section 5.1). -/
def ChannelState.graceful : ChannelState → Option Graceful
  | .stopping g => some g
  | .idle | .running | .fault _ => none

def Channel.isOn (ch : Channel) : Bool := ch.seq.state.isOn

/-- The wave is on while the period counter is below the period duty (R67). -/
def Pwm.wave (p : Pwm) : Bool := decide (p.counter < p.periodDuty)

/-- Upper and lower gate line of a leg state under a wave (R5). -/
def LegState.lines (wave : Bool) : LegState → Bool × Bool
  | .float => (false, false)
  | .upperOn => (true, false)
  | .lowerOn => (false, true)
  | .upperPwm => (wave, false)
  | .lowerPwm => (false, wave)
  | .pairPwm => (wave, !wave)

/-- The two gate lines of one leg (R65): by its applied state while a step is current, off otherwise. -/
def Channel.gateLines (ch : Channel) (leg : LegState) : Bool × Bool :=
  if ch.isOn then leg.lines ch.pwm.wave else (false, false)

/-- The six gate lines, upper and lower of legs A, B and C (R65). -/
def Channel.gates (ch : Channel) : List (Bool × Bool) :=
  [ch.gateLines ch.legs.a, ch.gateLines ch.legs.b, ch.gateLines ch.legs.c]

/-- The trip line is active while its sampled level equals the trip level (R76). -/
def Channel.tripActive (ch : Channel) : Bool := ch.sense.tripLine == ch.settings.tripLevel

/-- The run length N of the sense filter (R72). -/
def Settings.runLength (s : Settings) : Nat := 2 ^ s.filter

/-- System clocks in one tick of the channel (R48). -/
def Settings.clocksPerTick (s : Settings) : Nat := 2 ^ s.prescale

/-- The four interrupt lines: asserted while pending and not masked (R152). -/
def State.interruptLines (s : State) : BitVec 4 := s.vectors.pending &&& ~~~s.vectors.mask

/-- Engine state codes (R184). -/
def EngineState.toCode : EngineState → Nat
  | .halted => 0
  | .running => 1
  | .halting => 2
  | .fatal => 3

/-- Engine cause codes (R184). -/
def EngineCause.toCode : EngineCause → Nat
  | .none => 0
  | .adminConfig => 1
  | .adminFetchError => 2
  | .adminWriteError => 3

/-- Last-reset codes (R184). -/
def LastReset.toCode : LastReset → Nat
  | .powerOn => 0
  | .soft => 1

/-- RUN reads as 1 while the engine is RUNNING or FATAL (R172). -/
def EngineState.runBit : EngineState → BitVec 32
  | .running | .fatal => 1
  | .halted | .halting => 0

/-- What a read of an aligned word of the register window returns (R172, R175, R183, R188).
A read changes nothing, so it is no command. -/
def State.readRegister (s : State) (offset : BitVec 6) : BitVec 32 :=
  if offset = 0x00 then s.engine.state.runBit
  else if offset = 0x04 then
    BitVec.ofNat 32 (s.engine.state.toCode + 256 * s.engine.cause.toCode + 65536 * s.engine.lastReset.toCode)
  else if offset = 0x08 then s.engine.adminSqBase.extractLsb' 0 32
  else if offset = 0x0C then s.engine.adminSqBase.extractLsb' 32 32
  else if offset = 0x10 then s.engine.adminCqBase.extractLsb' 0 32
  else if offset = 0x14 then s.engine.adminCqBase.extractLsb' 32 32
  else if offset = 0x18 then
    BitVec.ofNat 32 (s.engine.adminSqSize.toNat + 65536 * s.engine.adminCqSize.toNat)
  else if offset = 0x24 then s.vectors.pending.setWidth 32
  else if offset = 0x28 then s.vectors.mask.setWidth 32
  else 0

end Sys2Proof.Machine
end

