-- ==== Sys2Proof/Machine/Records.lean ====
section
/-! DEFINITION. The byte formats of chapter 11: a step record read from sixteen bytes with its validity check (R6, R185), completion records and channel snapshots as the bytes written (R187), and the codes of R184. -/

namespace Sys2Proof.Machine

/-- Bits `hi:lo` of a byte as a number, `width` bits from bit `lo` up (11). -/
def bitsOf (b : Byte) (lo width : Nat) : Nat := b.toNat / 2 ^ lo % 2 ^ width

/-- A 16-bit little-endian field (11). -/
def half16 (lo hi : Byte) : Nat := lo.toNat + 256 * hi.toNat

/-- The low `n` bytes of a number, little-endian (11). -/
def bytesLE : Nat → Nat → List Byte
  | 0, _ => []
  | n + 1, v => BitVec.ofNat 8 v :: bytesLE n (v / 256)

/-- Zero bytes. -/
def zeros (n : Nat) : List Byte := List.replicate n 0

/-! ### Step records (R6, R185) -/

/-- Leg codes; 6 and 7 are unused (R184, R185). -/
def legOf (b : Byte) : Option LegState :=
  match bitsOf b 0 3 with
  | 0 => some .float
  | 1 => some .upperOn
  | 2 => some .lowerOn
  | 3 => some .upperPwm
  | 4 => some .lowerPwm
  | 5 => some .pairPwm
  | _ => none

/-- Sense line codes; 3 is unused (R184, R185). -/
def lineOf (n : Nat) : Option LineId :=
  if h : n < 3 then some ⟨n, h⟩ else none

/-- Edge codes; 3 is unused (R184, R185). -/
def edgeOf (n : Nat) : Option EdgeKind :=
  match n with
  | 0 => some .rising
  | 1 => some .falling
  | 2 => some .either
  | _ => none

/-- The mode of a record and the fields of that mode, or none where R6 makes the record fail:
an unused mode, sense line or edge code, a timeout below 64, a duration of 0, a factor of 0. -/
def modeOf (b : Table 16 Byte) : Option StepMode :=
  match bitsOf (b.read 0) 0 3 with
  | 0 =>
    match lineOf (bitsOf (b.read 12) 0 2), edgeOf (bitsOf (b.read 12) 2 2) with
    | some line, some edge =>
      if (b.read 15).toNat < 64 then none
      else some (.sensed line edge (b.read 13).toNat (b.read 14).toNat (b.read 15).toNat)
    | _, _ => none
  | 1 =>
    if half16 (b.read 12) (b.read 13) = 0 then none else some (.timed (half16 (b.read 12) (b.read 13)))
  | 2 => if (b.read 12).toNat = 0 then none else some (.scaled (b.read 12).toNat)
  | 3 => some (.hosted (half16 (b.read 12) (b.read 13)))
  | _ => none

/-- The branch of a record: none inside when absent; the whole none when it is present with a count of 0 (R2, R6). -/
def branchOf (b : Table 16 Byte) : Option (Option Branch) :=
  if (b.read 0).getLsbD 6 then
    if (b.read 6).toNat = 0 then none
    else some (some { target := Fin.ofNat 16 (bitsOf (b.read 5) 0 4), count := (b.read 6).toNat })
  else some none

/-- The duty override of a record: none inside when absent; the whole none when it is present and above 4096 (R2, R6). -/
def dutyOf (b : Table 16 Byte) : Option (Option Nat) :=
  if (b.read 0).getLsbD 7 then
    if 4096 < half16 (b.read 8) (b.read 9) then none else some (some (half16 (b.read 8) (b.read 9)))
  else some none

/-- The step record sixteen bytes hold, or none when it fails its validity check (R6, R185).
Reserved bits and the bytes of absent parts are ignored. -/
def stepRecordOf (b : Table 16 Byte) : Option StepRecord :=
  match modeOf b, legOf (b.read 1), legOf (b.read 2), legOf (b.read 3), branchOf b, dutyOf b with
  | some mode, some legA, some legB, some legC, some branch, some duty =>
    some { mode := mode, legs := { a := legA, b := legB, c := legC },
           next := Fin.ofNat 16 (bitsOf (b.read 4) 0 4),
           report := (b.read 0).getLsbD 3, seed := (b.read 0).getLsbD 4, mark := (b.read 0).getLsbD 5,
           branch := branch, duty := duty }
  | _, _, _, _, _, _ => none

/-! ### Codes (R184, R187) -/

def Status.toCode : Status → Nat
  | .success => 0
  | .invalidOpcode => 1
  | .invalidField => 2
  | .invalidQueue => 3
  | .invalidChannel => 4
  | .adminOnly => 5
  | .stateConflict => 6
  | .invalidStep => 7
  | .accessDenied => 8
  | .busError => 9
  | .aborted => 10
  | .overtaken => 11
  | .channelFault => 12
  | .deadline => 13
  | .tripActive => 14
  | .notFound => 15
  | .notCancelable => 16

def AdvanceCause.toCode : AdvanceCause → Nat
  | .sensed => 0
  | .forced => 1
  | .timed => 2
  | .scaled => 3
  | .hosted => 4

def FaultCause.toCode : FaultCause → Nat
  | .trip => 1
  | .lostSense => 2
  | .overspeed => 3
  | .hostTimeout => 4
  | .engine => 5

/-- The fault cause field of a snapshot, 0 for NONE. -/
def causeCode : Option FaultCause → Nat
  | none => 0
  | some c => c.toCode

def ChannelState.toCode : ChannelState → Nat
  | .idle => 0
  | .running => 1
  | .stopping _ => 2
  | .fault _ => 3

def Standby.toCode : Standby → Nat
  | .empty => 0
  | .loading _ => 1
  | .ready => 2
  | .swapPending _ => 3

def levelCode : Level → Nat
  | .low => 0
  | .high => 1

def QueueKind.toCode : QueueKind → Nat
  | .sq => 0
  | .cq => 1

def NoticeCause.toCode : NoticeCause → Nat
  | .sqFetchError => 0
  | .badPost => 1
  | .cqWriteError => 2
  | .badRelease => 3

/-- A step field with 0xFF for NONE (R184). -/
def stepCode : Option StepIx → Nat
  | none => 0xFF
  | some i => i.val

def flagCode (b : Bool) : Nat := if b then 1 else 0

/-! ### Completion records and snapshots (R187) -/

/-- Byte 0 of every completion record: the kind in bits 2:0, the pass marker in bit 7 (R187). -/
def kindByte (pass : Bool) (kind : Nat) : Byte := BitVec.ofNat 8 (kind + 128 * flagCode pass)

/-- The sixteen bytes of a completion record with its pass marker (R187). -/
def CqRecord.toBytes (pass : Bool) : CqRecord → List Byte
  | .commandDone tag sq sqHead status detail =>
    kindByte pass 0 :: bytesLE 1 status.toCode ++ bytesLE 2 tag.toNat ++ bytesLE 1 sq.val ++ zeros 1 ++
      bytesLE 2 sqHead ++ bytesLE 4 detail ++ zeros 4
  | .stepReport r lost =>
    kindByte pass 1 :: bytesLE 1 r.channel.val ++ bytesLE 1 r.stepLeft.val ++ bytesLE 1 (stepCode r.stepEntered) ++
      bytesLE 1 r.bank.val ++ bytesLE 1 r.cause.toCode ++ bytesLE 1 lost ++ bytesLE 1 (flagCode r.span.isSome) ++
      bytesLE 2 r.reference ++ bytesLE 2 r.cycle ++ bytesLE 2 (r.span.getD 0) ++ zeros 2
  | .channelNotice channel cause =>
    kindByte pass 2 :: bytesLE 1 channel.val ++ bytesLE 1 (ChannelState.fault cause).toCode ++
      bytesLE 1 cause.toCode ++ zeros 12
  | .queueNotice queue kind cause =>
    kindByte pass 3 :: bytesLE 1 queue.val ++ bytesLE 1 kind.toCode ++ bytesLE 1 cause.toCode ++ zeros 12

/-- The thirty-two bytes of a channel's snapshot (R118, R187). -/
def Channel.snapshot (ch : Channel) : List Byte :=
  bytesLE 1 ch.seq.state.toCode ++ bytesLE 1 (causeCode ch.seq.state.cause) ++
    bytesLE 1 (ch.store.active.val + 2 * flagCode ch.store.activeValid + 4 * flagCode ch.est.spanValid +
      8 * flagCode ch.seq.held.isSome + 16 * levelCode ch.sense.tripLine +
      32 * levelCode (ch.sense.accepted.read 0) + 64 * levelCode (ch.sense.accepted.read 1) +
      128 * levelCode (ch.sense.accepted.read 2)) ++
    bytesLE 1 ch.store.standby.toCode ++ bytesLE 1 ch.seq.currentStep.val ++ bytesLE 1 (stepCode ch.seq.loopOwner) ++
    bytesLE 1 ch.seq.loopCounter ++ bytesLE 1 ch.est.forcedCount ++ bytesLE 4 ch.est.stepTimer ++
    bytesLE 2 ch.est.reference ++ bytesLE 2 ch.est.spanCounter ++ bytesLE 4 ch.seq.cycle ++ bytesLE 2 ch.pwm.duty ++
    bytesLE 1 ch.seq.lost ++ zeros 9

end Sys2Proof.Machine
end

