-- ==== Sys2Proof/Machine/Ops.lean ====
section
/-! DEFINITION. The operations the commands share: window checks, handing and ending transactions, accepting and discarding records, completing commands, entering, leaving and advancing a step, fault entry, and what a halt, FATAL and a reset do to each block. -/

namespace Sys2Proof.Machine

/-! ### Parts of the state -/

def State.channel (s : State) (c : ChannelId) : Channel := s.channels.read c

def State.withChannel (s : State) (c : ChannelId) (ch : Channel) : State :=
  { s with channels := s.channels.write c ch }

def State.sq (s : State) (q : QueueId) : SqContext := s.sqs.read q

def State.withSq (s : State) (q : QueueId) (x : SqContext) : State :=
  { s with sqs := s.sqs.write q x }

def State.cq (s : State) (q : QueueId) : CqContext := s.cqs.read q

def State.withCq (s : State) (q : QueueId) (x : CqContext) : State :=
  { s with cqs := s.cqs.write q x }

def State.slot (s : State) (k : SlotId) : Slot := s.slots.read k

def State.withSlot (s : State) (k : SlotId) (x : Slot) : State :=
  { s with slots := s.slots.write k x }

def State.withPort (s : State) (p : Port) : State := { s with port := p }

def State.withVectors (s : State) (v : VectorUnit) : State := { s with vectors := v }

/-! ### Windows (R163, R164) -/

/-- Whether a window grants a direction (R163). -/
def Window.grants (w : Window) : Direction → Bool
  | .read => w.grantsRead
  | .write => w.grantsWrite

/-- Whether one window is enabled, grants the direction and covers the bytes from `start` on (R164). -/
def Window.covers (w : Window) (d : Direction) (start len : Nat) : Bool :=
  w.length != 0 && w.grants d && decide (w.base.toNat ≤ start) && decide (start + len ≤ w.base.toNat + w.length)

/-- The test of R164: the range passes no top of the address space and lies within one window. -/
def inOneWindow (ws : Table 4 Window) (d : Direction) (start len : Nat) : Bool :=
  decide (start + len ≤ 2 ^ 64) && (List.finRange 4).any fun i => (ws.read i).covers d start len

/-! ### The bus master port (R159 to R162) -/

/-- The direction of a requester's transactions (R159). -/
def directionOf : Requester → Direction
  | .fetch _ | .load _ => .read
  | .snapshot _ | .cqWrite _ => .write

/-- The size in bytes of a requester's transactions (R159). -/
def transferSize : Requester → Nat
  | .fetch _ | .snapshot _ => 32
  | .load _ | .cqWrite _ => 16

/-- The rings of SQ0 and CQ0 are exempt from the window checker (R165). -/
def isExempt : Requester → Bool
  | .fetch q | .cqWrite q => q == 0
  | .load _ | .snapshot _ => false

/-- CQ writes go on in FATAL and end by the completion writer's own rules; the others belong to commands (R162). -/
def isCqWrite : Requester → Bool
  | .cqWrite _ => true
  | .fetch _ | .load _ | .snapshot _ => false

/-- Whether the requester has a transaction outstanding (R160). -/
def Port.holds (p : Port) (r : Requester) : Bool := (p.requests ++ p.begun).any fun t => t.requester == r

/-- The transaction of the begun set a requester awaits, if any. -/
def Port.begunOf (p : Port) (r : Requester) : Option Transaction := p.begun.find? fun t => t.requester == r

/-- Whether system memory may answer the requester's begun transaction with data or with "done", and its requester wants the answer:
it was not refused at its beginning (R167) and its command was not discarded. -/
def Port.answers (p : Port) (r : Requester) : Bool :=
  match p.begunOf r with
  | some t => !t.refused && !t.discarded
  | none => false

/-- Whether the requester's begun transaction may fail and its requester acts on the failure (R161). -/
def Port.fails (p : Port) (r : Requester) : Bool :=
  match p.begunOf r with
  | some t => !t.discarded
  | none => false

/-- Whether the requester's begun transaction belongs to a command that was discarded. -/
def Port.hasDiscarded (p : Port) (r : Requester) : Bool :=
  match p.begunOf r with
  | some t => t.discarded
  | none => false

/-- A transaction is handed: it joins the end of the request list (R160). -/
def State.hand (s : State) (r : Requester) (address : Addr) : State :=
  s.withPort { s.port with requests := s.port.requests ++
    [{ requester := r, address := address, bytes := [], refused := false, discarded := false }] }

/-- The requester's transaction leaves the begun set at its end (R161). -/
def State.dropBegun (s : State) (r : Requester) : State :=
  s.withPort { s.port with begun := s.port.begun.eraseP fun t => t.requester == r }

/-- A requester will discard the result of its transaction. -/
def Transaction.discard (t : Transaction) : Transaction := { t with discarded := true }

/-! ### The completion writer (R139 to R150) -/

/-- Records accepted and not yet released (08, section 8.1). -/
def CqContext.occupied (x : CqContext) : Nat := (x.tail + x.size - x.head) % x.size + x.list.length

/-- The free count (08, section 8.1). -/
def CqContext.free (x : CqContext) : Nat := x.size - 1 - x.occupied

/-- One more reservation, report or notice fits: the free count exceeds the reserved count (R127, R145). -/
def CqContext.hasRoom (x : CqContext) : Bool := decide (x.reserved < x.free)

/-- The completion writer hands the write of the oldest record when the CQ is OPEN, its list is not empty and no write of it is outstanding (R147).
While HALTING no write is handed (R157). -/
def State.handCqWrite (s : State) (q : QueueId) : State :=
  if s.engine.state != .halting && (s.cq q).state == .opened && !(s.cq q).list.isEmpty && !s.port.holds (.cqWrite q) then
    s.hand (.cqWrite q) ((s.cq q).base + BitVec.ofNat 64 (16 * (s.cq q).tail))
  else s

/-- A record joins the end of a CQ's pending-write list. -/
def State.appendRecord (s : State) (q : QueueId) (r : CqRecord) : State :=
  (s.withCq q { s.cq q with list := (s.cq q).list ++ [r] }).handCqWrite q

/-- Whether an offer of a report or notice to a CQ is accepted, but for the held notice of R95 (R145). -/
def State.accepts (s : State) (q : QueueId) : Bool :=
  s.engine.state != .halting && (s.cq q).state == .opened && (s.cq q).hasRoom

/-- A queue notice is offered to CQ0: accepted, or discarded without a trace (R145, R148). -/
def State.offerQueueNotice (s : State) (queue : QueueId) (kind : QueueKind) (cause : NoticeCause) : State :=
  if s.accepts 0 then s.appendRecord 0 (.queueNotice queue kind cause) else s

/-- The lost count after one more lost report (R146). -/
def moreLost (n : Nat) : Nat := if n < 255 then n + 1 else 255

def Channel.withHeld (ch : Channel) (h : Option HeldNotice) : Channel :=
  { ch with seq := { ch.seq with held := h } }

def Channel.withLost (ch : Channel) (n : Nat) : Channel :=
  { ch with seq := { ch.seq with lost := n } }

/-- A step report is offered to the channel's report CQ (R44, R95, R145, R146):
accepted with the lost count, which becomes 0; or dropped, which raises the lost count except while HALTING. -/
def State.offerReport (s : State) (c : ChannelId) (r : Report) : State :=
  match (s.channel c).settings.reportCq with
  | none => s
  | some q =>
    if s.accepts q && (s.channel c).seq.held.isNone then
      (s.withChannel c ((s.channel c).withLost 0)).appendRecord q (.stepReport r (s.channel c).seq.lost)
    else if s.engine.state == .halting then s
    else s.withChannel c ((s.channel c).withLost (moreLost (s.channel c).seq.lost))

/-- A notice with no CQ to wait for is not held (R93, R94, R145): the CQ must be OPEN and the engine not HALTING.
DEDUCED (log entry 20) for a notice that would replace a held one, where R94 names a report CQ of NONE or BROKEN alone. -/
def State.heldOn (s : State) (q : Option QueueId) (cause : FaultCause) : Option HeldNotice :=
  match q with
  | none => none
  | some q => if (s.cq q).state == .opened && s.engine.state != .halting then some { cause := cause, cq := q } else none

/-- The channel notice of a fault entry (R93, R94).
With no notice held it is offered to the report CQ and held when an OPEN CQ refuses it;
with one held it is not offered but replaces it, waiting for the current report CQ. -/
def State.offerChannelNotice (s : State) (c : ChannelId) (cause : FaultCause) : State :=
  match (s.channel c).seq.held, (s.channel c).settings.reportCq with
  | none, none => s
  | none, some q =>
    if s.accepts q then s.appendRecord q (.channelNotice c cause)
    else s.withChannel c ((s.channel c).withHeld (s.heldOn (some q) cause))
  | some _, q => s.withChannel c ((s.channel c).withHeld (s.heldOn q cause))

/-- A release offers the freed room to one channel's held notice (R96, R150). -/
def State.offerHeld (s : State) (q : QueueId) (c : ChannelId) : State :=
  match (s.channel c).seq.held with
  | none => s
  | some h =>
    if h.cq == q && s.accepts q then
      (s.withChannel c ((s.channel c).withHeld none)).appendRecord q (.channelNotice c h.cause)
    else s

/-! ### The command table (R106 to R110, R124, R144) -/

/-- Whether a slot is FETCHING or WORKING with an SQ id (R106). -/
def Slot.usesSq (q : QueueId) : Slot → Bool
  | .free => false
  | .fetching _ sq _ => sq == q
  | .working w => w.sq == q

/-- Whether a slot is WORKING with code LOAD_STEPS or READ_CHANNEL (R106). -/
def Slot.movesData : Slot → Bool
  | .working w => w.code.movesData
  | .free | .fetching _ _ _ => false

/-- Whether any slot holds an SQ id (R106, R123). -/
def State.sqInUse (s : State) (q : QueueId) : Bool :=
  (List.finRange 16).any fun k => (s.slot k).usesSq q

/-- A COMMAND_DONE is taken by the completion writer (R144): accepted with the SQ head of this event, or discarded when its CQ is BROKEN;
the reserved count falls by one in either case. -/
def State.takeCompletion (s : State) (w : Working) (status : Status) (detail : Nat) : State :=
  let t := s.withCq w.cq { s.cq w.cq with reserved := (s.cq w.cq).reserved - 1 }
  if (s.cq w.cq).state == .opened then
    t.appendRecord w.cq (.commandDone w.tag w.sq (s.sq w.sq).head status detail)
  else t

/-- A slot's completion is handed and the slot becomes FREE (R107, R144). -/
def State.finishSlot (s : State) (k : SlotId) (status : Status) (detail : Nat) : State :=
  match s.slot k with
  | .working w => (s.takeCompletion w status detail).withSlot k .free
  | .free | .fetching _ _ _ => s

/-- A CLOSING queue becomes CLOSED once no slot holds its SQ id, and its CLOSE_SQ completes SUCCESS (R124). -/
def State.closeIfDrained (s : State) (q : QueueId) : State :=
  match (s.sq q).state with
  | .closing closer =>
    if s.sqInUse q then s
    else
      match closer with
      | some k => (s.withSq q { s.sq q with state := .closed }).finishSlot k .success 0
      | none => s
  | .closed | .opened | .broken => s

/-- A command ends: its completion is handed, its slot becomes FREE, and a queue that waited for this slot closes (R107, R108, R124). -/
def State.complete (s : State) (k : SlotId) (status : Status) (detail : Nat) : State :=
  match s.slot k with
  | .working w => (s.finishSlot k status detail).closeIfDrained w.sq
  | .free | .fetching _ _ _ => s

/-! ### The halt's end (R177) -/

/-- What the end of a halt leaves in the fetch unit, the completion writer, the vector unit and the engine (R137, R157, R177). -/
def State.endHalt (s : State) : State :=
  { s with
    sqs := Table.fill 8 .reset, fetch := none, lastServed := Table.fill 4 none, cqs := resetCqs,
    vectors := { s.vectors with unsignalled := Table.fill 8 0, timers := Table.fill 8 none, pending := 0 },
    engine := { s.engine with state := .halted } }

/-- The halt ends in the event in which the begun set becomes empty (R177). -/
def State.endHaltIfDone (s : State) : State :=
  if s.engine.state == .halting && s.port.begun.isEmpty then s.endHalt else s

/-- A transaction ends and its result is discarded (R10, R110, R136, R137, R157). -/
def State.endDiscarded (s : State) (r : Requester) : State := (s.dropBegun r).endHaltIfDone

/-! ### The two steps the part makes by itself (R127 to R130, R160, R167) -/

/-- Pending entries of a submission queue (R120). -/
def SqContext.pendingEntries (x : SqContext) : Nat := (x.tail + x.size - x.head) % x.size

/-- A slot a fetch may take: DESIGN CHOICE (log entry 9), the FREE slot of lowest number. -/
def State.freeSlot (s : State) : Option SlotId :=
  (List.finRange 16).find? fun k => s.slot k == .free

/-- Eligibility (R127). -/
def State.eligible (s : State) (q : QueueId) : Bool :=
  (s.sq q).state == .opened && (s.sq q).pendingEntries != 0 && s.freeSlot.isSome &&
    match (s.sq q).boundCq with
    | some b => (s.cq b).state == .opened && (s.cq b).hasRoom
    | none => false

/-- The ids of one class's round: upward from the last-served id, round from 7 to 1, itself last; from 1 when none was served (R129). -/
def roundFrom : Option QueueId → List QueueId
  | none => [1, 2, 3, 4, 5, 6, 7]
  | some q => ([1, 2, 3, 4, 5, 6, 7].filter fun i => decide (q < i)) ++ ([1, 2, 3, 4, 5, 6, 7].filter fun i => decide (i ≤ q))

/-- The first eligible queue of a class in its round (R129). -/
def State.chosenOfClass (s : State) (n : Fin 4) : Option QueueId :=
  (roundFrom (s.lastServed.read n)).find? fun q => s.eligible q && (s.sq q).priority == .level n

/-- The arbiter's choice (R129). -/
def State.choose (s : State) : Option QueueId :=
  if s.eligible 0 then some 0 else (List.finRange 4).findSome? s.chosenOfClass

/-- The last-served value of an I/O queue's class becomes its id; a fetch from SQ0 changes none (R129, R130). -/
def State.serve (s : State) (q : QueueId) : State :=
  match (s.sq q).priority with
  | .admin => s
  | .level n => { s with lastServed := s.lastServed.write n (some q) }

/-- The fetch unit is idle (R128). -/
def State.fetchIdle (s : State) : Bool := s.engine.state == .running && s.fetch.isNone

/-- A fetch starts from a queue with a slot: slot, reservation, last-served value, fetch record and read (R130). -/
def State.startFetchFrom (s : State) (q b : QueueId) (k : SlotId) : State :=
  let t := (s.withSlot k (.fetching s.nextAge q b)).withCq b { s.cq b with reserved := (s.cq b).reserved + 1 }
  let u := { t.serve q with nextAge := s.nextAge + 1, fetch := some { sq := q, index := (s.sq q).head, slot := k } }
  u.hand (.fetch q) ((s.sq q).base + BitVec.ofNat 64 (32 * (s.sq q).head))

/-- While the fetch unit is idle and a queue is eligible, a choice is made and the fetch starts (R128, R130). -/
def State.startFetch (s : State) : State :=
  if s.fetchIdle then
    match s.choose, s.freeSlot with
    | some q, some k =>
      match (s.sq q).boundCq with
      | some b => s.startFetchFrom q b k
      | none => s
    | _, _ => s
  else s

/-- The channel of the READ_CHANNEL in a slot. -/
def State.snapshotChannel (s : State) (k : SlotId) : Option ChannelId :=
  match s.slot k with
  | .working w => channelOf w.channel
  | .free | .fetching _ _ _ => none

/-- The bytes a write carries, fixed when it begins: the snapshot sampled in that event (R117, R118), or the oldest record with the pass marker (R147, R160). -/
def State.bytesOf (s : State) : Requester → List Byte
  | .fetch _ | .load _ => []
  | .snapshot k =>
    match s.snapshotChannel k with
    | some c => (s.channel c).snapshot
    | none => []
  | .cqWrite q =>
    match (s.cq q).list with
    | r :: _ => r.toBytes (s.cq q).pass
    | [] => []

/-- Whether the window checker lets a transaction begin (R165, R167). -/
def State.allowed (s : State) (t : Transaction) : Bool :=
  isExempt t.requester || inOneWindow s.windows (directionOf t.requester) t.address.toNat (transferSize t.requester)

/-- The port begins the oldest transaction of its request list while its begun set holds fewer than four (R160, R167). -/
def State.beginTransaction (s : State) : State :=
  match s.port.requests with
  | [] => s
  | t :: rest =>
    if s.port.begun.length < 4 then
      s.withPort { requests := rest,
                   begun := s.port.begun ++ [{ t with bytes := s.bytesOf t.requester, refused := !s.allowed t }] }
    else s

/-- What R128 and R160 put in the same event as the event that made it possible: the fetch start, then the beginnings of transactions.
DEDUCED (log entry 1): it is done before the next command is taken, unless the rows FETCH_START and PORT_BEGIN_TRANSACTION have done it.
DESIGN CHOICE (log entry 28): where a transaction's end makes room, the beginnings of that event follow its every other effect, such as the dispatch of a returned record.
DESIGN CHOICE (log entry 29): where one event frees a slot and offers a report or notice, the offer comes before the choice and its reservation. -/
def State.settle (s : State) : State :=
  s.startFetch.beginTransaction.beginTransaction.beginTransaction.beginTransaction

/-- An event at the part: nothing happens while the reset pin is asserted (R182). -/
def atEvent (f : State → State) (s : State) : Host.Outcome State Fault Refusal :=
  .next (if s.resetPin then s else f s.settle)

/-! ### Dispatch (R100, R131) -/

/-- The fetch record when its read returns with data: the read is begun, not refused, not discarded, and its slot is FETCHING (R131). -/
def State.returning (s : State) : Option FetchRecord :=
  match s.fetch with
  | some f =>
    match s.slot f.slot with
    | .fetching _ sq _ => if s.port.answers (.fetch f.sq) && sq == f.sq then some f else none
    | .free | .working _ => none
  | none => none

/-- The slot of a returned fetch becomes WORKING with the record's code, tag and channel (R107). -/
def Slot.toWorking (code : CommandCode) (tag : BitVec 16) (channel : Byte) : Slot → Slot
  | .fetching age sq cq =>
    .working { age := age, sq := sq, cq := cq, code := code, tag := tag, channel := channel, owner := code.owner }
  | .free => .free
  | .working w => .working w

/-- The return of a fetch read (R131, items 1 to 3): the head moves, the slot becomes WORKING, no read is outstanding. -/
def State.takeRecord (s : State) (f : FetchRecord) (code : CommandCode) (tag : BitVec 16) (channel : Byte) : State :=
  let t := s.withSq f.sq { s.sq f.sq with head := (f.index + 1) % (s.sq f.sq).size }
  let u := t.withSlot f.slot ((s.slot f.slot).toWorking code tag channel)
  { u.dropBegun (.fetch f.sq) with fetch := none }

/-- A returned fetch whose command was discarded ends with its data discarded (R136, R137); with no fetch to return nothing happens. -/
def State.dropDiscardedFetch (s : State) : State :=
  match (List.finRange 8).find? fun q => s.port.hasDiscarded (.fetch q) with
  | some q => s.endDiscarded (.fetch q)
  | none => s

/-- Dispatch (R100): the checks every command meets in order, then its owner's own work on the command's slot. -/
def State.dispatch (s : State) (code : CommandCode) (tag : BitVec 16) (channel : Byte)
    (owner : SlotId → State → State) : State :=
  match s.returning with
  | none => s.dropDiscardedFetch
  | some f =>
    let t := s.takeRecord f code tag channel
    if code.isUnknown then t.complete f.slot .invalidOpcode 0
    else if code.isAdminOnly && f.sq != 0 then t.complete f.slot .adminOnly 0
    else if code.readsChannel && (channelOf channel).isNone then t.complete f.slot .invalidChannel 0
    else owner f.slot t

/-- A channel command's owner, which works on the channel the record names (R100 check 3 has let it pass). -/
def onChannel (channel : Byte) (owner : ChannelId → SlotId → State → State) (k : SlotId) (s : State) : State :=
  match channelOf channel with
  | some c => owner c k s
  | none => s

end Sys2Proof.Machine
end

