-- ==== Sys2Proof/Machine/Steps.lean ====
section
/-! DEFINITION. The channel operations the commands share: step entry, advance, the taken edge, fault entry, the end of a run, ticks and the windows they find, PWM periods, and the step store's loads and swaps. -/

namespace Sys2Proof.Machine

/-! ### The step store (chapter 1) -/

/-- The other of the two banks (R7). -/
def otherBank (i : Fin 2) : Fin 2 := if i = 0 then 1 else 0

def StepStore.activeBank (x : StepStore) : Bank := x.banks.read x.active

def StepStore.standbyBank (x : StepStore) : Bank := x.banks.read (otherBank x.active)

/-- The record of the current step in the active bank (R21). -/
def Channel.current (ch : Channel) : Option StepRecord := ch.store.activeBank.read ch.seq.currentStep

/-- Whether all sixteen entries are absent (R8). -/
def Bank.isEmpty (b : Bank) : Bool := (List.finRange 16).all fun i => (b.read i).isNone

/-- The banks exchange roles; active-valid is set (R17, R18). -/
def StepStore.exchange (x : StepStore) (newStandby : Standby) : StepStore :=
  { x with active := otherBank x.active, activeValid := true, standby := newStandby }

/-- The swap taken at once (R17): the former active bank is READY if it holds a present entry, EMPTY otherwise. -/
def StepStore.swapAtOnce (x : StepStore) : StepStore :=
  x.exchange (if Bank.isEmpty x.activeBank then .empty else .ready)

def Prior.toStandby : Prior → Standby
  | .empty => .empty
  | .ready => .ready

/-- A load that does not complete returns the bank to its prior state and empties the load buffer (R10, R14, R15);
a swap not taken returns it to READY (R19). -/
def Standby.giveUp : Standby → Standby
  | .loading l => l.prior.toStandby
  | .swapPending _ => .ready
  | .empty => .empty
  | .ready => .ready

def StepStore.withStandby (x : StepStore) (y : Standby) : StepStore := { x with standby := y }

def Channel.withStandby (ch : Channel) (y : Standby) : Channel := { ch with store := ch.store.withStandby y }

/-- The entries one entry reaches: its next, and its branch target when it has a branch (R16). -/
def successors (r : StepRecord) : BitVec 16 :=
  (1#16 <<< r.next.val) ||| (match r.branch with
    | some b => 1#16 <<< b.target.val
    | none => 0#16)

/-- One round of the reachability check: what the present entries of the set reach joins it (R16). -/
def Bank.spread (b : Bank) (m : BitVec 16) : BitVec 16 :=
  (List.finRange 16).foldl (fun acc i =>
    match b.read i with
    | some r => if m.getLsbD i.val then acc ||| successors r else acc
    | none => acc) m

/-- `n` rounds of the reachability check. -/
def Bank.spreadN (b : Bank) : Nat → BitVec 16 → BitVec 16
  | 0, m => m
  | n + 1, m => Bank.spreadN b n (b.spread m)

/-- The set of reachable indices, from index 0 on (R16); sixteen rounds reach all there is to reach. -/
def Bank.reachable (b : Bank) : BitVec 16 := b.spreadN 16 1#16

/-- The lowest reachable index whose entry is absent, if any (R16). -/
def Bank.lowestMissing (b : Bank) : Option StepIx :=
  (List.finRange 16).find? fun i => b.reachable.getLsbD i.val && (b.read i).isNone

/-- The standby bank as a completed load writes it (R13): record i of the buffer at entry first + i, the rest kept, or absent under CLEAR_REST. -/
def Load.write (l : Load) (buffer : List StepRecord) (b : Bank) : Bank :=
  Vector.ofFn fun i =>
    if l.first ≤ i.val ∧ i.val < l.first + l.count then buffer[i.val - l.first]?
    else if l.clearRest then none
    else b.read i

/-- The step store issues the read of the load's next record when it has no read outstanding (R11, R12, R15). -/
def State.issueLoadRead (s : State) (c : ChannelId) : State :=
  match (s.channel c).store.standby with
  | .loading l =>
    if s.port.holds (.load c) then s
    else s.hand (.load c) (l.source + BitVec.ofNat 64 (16 * l.buffer.length))
  | .empty | .ready | .swapPending _ => s

/-- The requests and begun reads of a cancelled load will be discarded when they end (R15). -/
def Port.discardOf (p : Port) (r : Requester) : Port :=
  { requests := p.requests.map fun t => if t.requester == r then t.discard else t,
    begun := p.begun.map fun t => if t.requester == r then t.discard else t }

/-! ### Entering a step (R26, R27) -/

/-- The windows of a step from the reference at entry (R27). -/
def windowsOf (ref : Nat) : StepMode → Windows
  | .sensed _ _ blank delay timeout =>
    { Windows.zero with blankEnd := ref * blank / 256, delay := ref * delay / 256,
                        timeout := min 65535 (ref * timeout / 64) }
  | .timed duration => { Windows.zero with length := duration }
  | .scaled factor => { Windows.zero with length := max 1 (ref * factor / 64) }
  | .hosted limit => { Windows.zero with hostLimit := limit }

def StepMode.isSensed : StepMode → Bool
  | .sensed _ _ _ _ _ => true
  | .timed _ | .scaled _ | .hosted _ => false

def StepMode.isHosted : StepMode → Bool
  | .hosted _ => true
  | .sensed _ _ _ _ _ | .timed _ | .scaled _ => false

/-- TIMED or SCALED: the step ends at its length and may seed (R33, R34). -/
def StepMode.hasLength : StepMode → Bool
  | .timed _ | .scaled _ => true
  | .sensed _ _ _ _ _ | .hosted _ => false

/-- The override an entered record brings: staged with its value, or none (R70). -/
def overrideOf : Option Nat → DutyOverride
  | some d => .staged d
  | none => .none

/-- What entering a step with record `r` does to its channel (R26).
A blank end of 0 is found at the entry itself (R51). -/
def Channel.enterRecord (ch : Channel) (i : StepIx) (r : StepRecord) : Channel :=
  { ch with
    legs := r.legs,
    pwm := { ch.pwm with override := overrideOf r.duty },
    est := { ch.est with stepTimer := 0, spanValid := ch.est.spanValid && r.mode.isSensed },
    seq := { ch.seq with
      currentStep := i, windows := windowsOf ch.est.reference r.mode,
      blankFound := r.mode.isSensed && (windowsOf ch.est.reference r.mode).blankEnd == 0,
      edgeTaken := false, edgeTimer := 0, edgeSpan := none } }

/-- A step is entered by its index in the active bank (R21, R26).
R21 says that a present record is always found; an absent one, which no run meets, leaves everything but the index. -/
def Channel.enter (ch : Channel) (i : StepIx) : Channel :=
  match ch.store.activeBank.read i with
  | some r => ch.enterRecord i r
  | none => { ch with seq := { ch.seq with currentStep := i } }

/-! ### Leaving a run (R46, R66, R70, R82, R90) -/

/-- Leaving RUNNING or STOPPING for IDLE or FAULT: the legs float, the override ends, the tick divider stops. -/
def Channel.leave (ch : Channel) (st : ChannelState) : Channel :=
  { ch with
    legs := .allFloat,
    pwm := { ch.pwm with override := .none },
    est := { ch.est with divider := none },
    seq := { ch.seq with state := st } }

/-- The loop owner becomes NONE and the loop counter 0 (R42). -/
def Channel.clearLoop (ch : Channel) : Channel :=
  { ch with seq := { ch.seq with loopOwner := none, loopCounter := 0 } }

/-- The forced count becomes 0 (R61). -/
def Channel.clearForced (ch : Channel) : Channel :=
  { ch with est := { ch.est with forcedCount := 0 } }

/-- A run ends in a stop (R82): IDLE, and a pending swap is taken and its COMMIT_STEPS completes SUCCESS. -/
def State.endRun (s : State) (c : ChannelId) : State :=
  let ch := ((s.channel c).leave .idle).clearForced
  match ch.store.standby with
  | .swapPending k =>
    (s.withChannel c { ch.clearLoop with store := ch.store.exchange .ready }).complete k .success 0
  | .empty | .ready | .loading _ => s.withChannel c ch

/-- Fault entry withdraws a pending swap and completes its COMMIT_STEPS CHANNEL_FAULT (R19, R91 item 1). -/
def State.faultChannel (s : State) (c : ChannelId) (cause : FaultCause) : State :=
  let ch := (s.channel c).leave (.fault cause)
  match ch.store.standby with
  | .swapPending k => (s.withChannel c (ch.withStandby .ready)).complete k .channelFault 0
  | .empty | .ready | .loading _ => s.withChannel c ch

/-- A pending graceful STOP completes with a status (R91 item 2). -/
def State.completeStop (s : State) (g : Option Graceful) (status : Status) : State :=
  match g with
  | some g => s.complete g.slot status 0
  | none => s

/-- Fault entry (R88, R90, R91): from RUNNING or STOPPING only; pending commands complete, then the notice is offered.
At engine FATAL the commands have been discarded first, so nothing completes (R92). -/
def State.faultEntry (s : State) (c : ChannelId) (cause : FaultCause) : State :=
  if (s.channel c).isOn then
    ((s.faultChannel c cause).completeStop (s.channel c).seq.state.graceful .channelFault).offerChannelNotice c cause
  else s

/-! ### Advancing (R34, R38 to R45) -/

/-- A seed: a TIMED or SCALED step's length, clamped to 1 to 65535, becomes the reference (R34, R59). -/
def Channel.seeded (ch : Channel) (r : StepRecord) : Channel :=
  if r.seed && r.mode.hasLength then
    { ch with est := { ch.est with reference := max 1 (min 65535 ch.seq.windows.length) } }
  else ch

/-- The cycle counter counts a mark left by advance, from 4294967295 to 0 (R40). -/
def Channel.countMark (ch : Channel) (r : StepRecord) : Channel :=
  if r.mark then { ch with seq := { ch.seq with cycle := (ch.seq.cycle + 1) % 2 ^ 32 } } else ch

/-- The branch rule (R41): the loop owner and counter after step `i` is left, and the step chosen. -/
def branchRule (owner : Option StepIx) (counter : Nat) (i : StepIx) (b : Branch) (next : StepIx) :
    Option StepIx × Nat × StepIx :=
  let n := if owner = some i then counter else b.count
  if n = 0 then (none, 0, next) else (some i, n - 1, b.target)

/-- The next step by branch or by next (R38 items 3 and 4), entered (item 5). -/
def Channel.follow (ch : Channel) (r : StepRecord) : Channel :=
  match r.branch with
  | none => ch.enter r.next
  | some b =>
    let x := branchRule ch.seq.loopOwner ch.seq.loopCounter ch.seq.currentStep b r.next
    Channel.enter { ch with seq := { ch.seq with loopOwner := x.1, loopCounter := x.2.1 } } x.2.2

/-- A swap taken at a mark with no stop pending: step 0 of the newly active bank is entered (R39). -/
def Channel.swapAtMark (ch : Channel) : Channel :=
  Channel.enter { ch.clearLoop with store := ch.store.exchange .ready } 0

/-- The cycle-mark handling and the choice of the next step (R38 items 2 to 5, R39), with the completions they hand (R45 items 1 and 2). -/
def State.leaveStep (s : State) (c : ChannelId) (r : StepRecord) : State :=
  let ch := s.channel c
  match r.mark, ch.seq.state.graceful, ch.store.standby with
  | true, some g, _ => (s.endRun c).complete g.slot .success 0
  | true, none, .swapPending k => (s.withChannel c ch.swapAtMark).complete k .success 0
  | true, none, .empty => s.withChannel c (ch.follow r)
  | true, none, .ready => s.withChannel c (ch.follow r)
  | true, none, .loading _ => s.withChannel c (ch.follow r)
  | false, _, _ => s.withChannel c (ch.follow r)

/-- The step entered by an advance, or NONE when the channel went IDLE at the mark (R43). -/
def Channel.entered (ch : Channel) : Option StepIx :=
  if ch.isOn then some ch.seq.currentStep else none

/-- The step report of an advance (R43): `before` is the channel as it stood in the step left, `now` after the advance. -/
def reportOf (c : ChannelId) (cause : AdvanceCause) (before now : Channel) : Report :=
  { channel := c, stepLeft := before.seq.currentStep, bank := before.store.active, cause := cause,
    stepEntered := now.entered, reference := now.est.reference, cycle := now.seq.cycle % 65536,
    span := if cause = .sensed then before.seq.edgeSpan else none }

/-- An advance (R38): seed, cycle mark, choice of the next step, its entry, and the report of the step left. -/
def State.advanceStep (s : State) (c : ChannelId) (cause : AdvanceCause) : State :=
  let ch := s.channel c
  match ch.current with
  | none => s
  | some r =>
    let t := (s.withChannel c ((ch.seeded r).countMark r)).leaveStep c r
    if r.report then t.offerReport c (reportOf c cause ch (t.channel c)) else t

/-! ### The taken edge (R28, R29, R54 to R57) -/

/-- The valid span a taken edge finds, if any (R54). -/
def Estimator.validSpan (e : Estimator) : Option Nat :=
  if e.spanValid && decide (1 ≤ e.spanCounter) && decide (e.spanCounter ≤ 65534) then some e.spanCounter else none

/-- A valid span below a nonzero minimum interval raises OVERSPEED (R55). -/
def isOverspeed (span : Option Nat) (minInterval : Nat) : Bool :=
  match span with
  | some n => minInterval != 0 && decide (n < minInterval)
  | none => false

/-- The reference plus (span minus reference) divided by 2^k, truncated toward zero (R56). -/
def smoothed (reference span k : Nat) : Nat :=
  ((reference : Int) + Int.tdiv ((span : Int) - (reference : Int)) ((2 ^ k : Nat) : Int)).toNat

/-- The reference after a taken edge that raised no OVERSPEED (R54, R56). -/
def referenceAfter (reference k : Nat) : Option Nat → Nat
  | some n => smoothed reference n k
  | none => reference

/-- Every taken edge ends its estimator event the same way (R57). -/
def Estimator.afterEdge (e : Estimator) : Estimator :=
  { e with spanCounter := 0, spanValid := true, forcedCount := 0 }

/-- The channel after a taken edge that raised no OVERSPEED (R29 items 1, 3, 4 and 5). -/
def Channel.edgeRecorded (ch : Channel) : Channel :=
  { ch with
    est := { ch.est.afterEdge with
      reference := referenceAfter ch.est.reference ch.settings.shift ch.est.validSpan },
    seq := { ch.seq with edgeTaken := true, edgeSpan := ch.est.validSpan, edgeTimer := ch.est.stepTimer } }

/-- A SENSED step takes its edge (R29); a delay of 0 makes it advance in the same event (R30). -/
def State.takeEdge (s : State) (c : ChannelId) : State :=
  let ch := s.channel c
  if isOverspeed ch.est.validSpan ch.settings.minInterval then
    (s.withChannel c { ch with est := ch.est.afterEdge }).faultEntry c .overspeed
  else if ch.seq.windows.delay = 0 then (s.withChannel c ch.edgeRecorded).advanceStep c .sensed
  else s.withChannel c ch.edgeRecorded

/-- Whether a change of the filtered line to `level` is of an edge kind (R28). -/
def EdgeKind.matches (level : Level) : EdgeKind → Bool
  | .rising => level == .high
  | .falling => level == .low
  | .either => true

/-- Whether the current step would take this edge: RUNNING or STOPPING in a SENSED step, blank found, no edge taken, its line and kind (R28, R74). -/
def Channel.takes (ch : Channel) (line : LineId) (level : Level) : Bool :=
  ch.isOn && ch.seq.blankFound && !ch.seq.edgeTaken &&
    match ch.current with
    | some r =>
      match r.mode with
      | .sensed l e _ _ _ => l == line && e.matches level
      | .timed _ | .scaled _ | .hosted _ => false
    | none => false

/-- Whether a sample of the lines makes an edge on a line: it differs from the accepted level, and the run count it raises equals N (R72). -/
def Sense.makesEdge (x : Sense) (n : Nat) (sample : Table 3 Level) (line : LineId) : Bool :=
  sample.read line != x.accepted.read line && x.runs.read line + 1 == n

/-- The front end after one sample of its three lines (R72): on each line the sample equals the accepted level and clears the run count,
or raises it, or makes an edge, which moves the accepted level and clears the run count. -/
def Sense.sampled (x : Sense) (n : Nat) (sample : Table 3 Level) : Sense :=
  { x with
    pins := sample,
    accepted := Vector.ofFn fun l => if x.makesEdge n sample l then sample.read l else x.accepted.read l,
    runs := Vector.ofFn fun l =>
      if sample.read l == x.accepted.read l || x.makesEdge n sample l then 0 else x.runs.read l + 1 }

/-- The lines on which a sample makes an edge (R75). -/
def Channel.edgesOf (ch : Channel) (sample : Table 3 Level) : List LineId :=
  (List.finRange 3).filter fun l => ch.sense.makesEdge ch.settings.runLength sample l

def Channel.sampled (ch : Channel) (sample : Table 3 Level) : Channel :=
  { ch with sense := ch.sense.sampled ch.settings.runLength sample }

/-- The edge of a sample that the current step takes, if any; an edge carries its line's new accepted level (R74).
A step watches one line, so there is at most one. -/
def Channel.taken (ch : Channel) (edges : List LineId) : Option LineId :=
  edges.find? fun l => ch.takes l (ch.sense.accepted.read l)

/-- The edges of one sample are offered in its event (R74, R75); the first number bounds how many steps may take one.
A step entered at a taken edge of delay 0 examines the other edges of the sample, delivered in the event of its entry (R28).
DESIGN CHOICE (log entry 27): the taken edge itself is not offered again to the step its advance enters. -/
def State.offerEdges (c : ChannelId) : Nat → List LineId → State → State
  | 0, _, s => s
  | n + 1, edges, s =>
    match (s.channel c).taken edges with
    | none => s
    | some l => State.offerEdges c n (edges.filter fun i => i != l) (s.takeEdge c)

/-- One sample of the three sense lines of a channel (R72, R75): the filter moves, and the edges it makes are offered to the sequencer. -/
def State.sampleSense (s : State) (c : ChannelId) (sample : Table 3 Level) : State :=
  State.offerEdges c 3 ((s.channel c).edgesOf sample) (s.withChannel c ((s.channel c).sampled sample))

/-! ### Ticks and the windows they find (R48 to R52, R85) -/

/-- The step timer after one more tick; it holds at 262143 (R50). -/
def nextTimer (n : Nat) : Nat := min 262143 (n + 1)

/-- The span counter after one more tick; it holds at 65535 (R52). -/
def nextSpan (n : Nat) : Nat := min 65535 (n + 1)

/-- The graceful-stop record after one more tick (R85). -/
def Graceful.tick (g : Graceful) : Graceful :=
  if g.deadline = 0 then g else { g with count := g.count + 1 }

def ChannelState.tick : ChannelState → ChannelState
  | .stopping g => .stopping g.tick
  | .idle => .idle
  | .running => .running
  | .fault c => .fault c

/-- One tick of a running channel (R48, R50, R52, R85): the span is marked invalid at the tick that brings its counter to 65535. -/
def Channel.countTick (ch : Channel) : Channel :=
  { ch with
    est := { ch.est with
      stepTimer := nextTimer ch.est.stepTimer, spanCounter := nextSpan ch.est.spanCounter,
      spanValid := ch.est.spanValid && decide (ch.est.spanCounter + 1 < 65535) },
    seq := { ch.seq with state := ch.seq.state.tick } }

/-- The mode of the current step of a RUNNING or STOPPING channel. -/
def Channel.currentMode (ch : Channel) : Option StepMode :=
  if ch.isOn then ch.current.map StepRecord.mode else none

/-- Whether the current step is in a mode. -/
def Channel.inMode (ch : Channel) (p : StepMode → Bool) : Bool :=
  match ch.currentMode with
  | some m => p m
  | none => false

/-- The blank end has been reached and not yet found (R51). -/
def Channel.blankDue (ch : Channel) : Bool :=
  ch.inMode StepMode.isSensed && !ch.seq.blankFound && decide (ch.seq.windows.blankEnd ≤ ch.est.stepTimer)

/-- The timeout has been reached with no edge taken (R31, R51). -/
def Channel.timeoutDue (ch : Channel) : Bool :=
  ch.inMode StepMode.isSensed && !ch.seq.edgeTaken && decide (ch.seq.windows.timeout ≤ ch.est.stepTimer)

/-- The delay after the taken edge has run for its length (R30, R51). -/
def Channel.delayDue (ch : Channel) : Bool :=
  ch.inMode StepMode.isSensed && ch.seq.edgeTaken &&
    decide (ch.seq.edgeTimer + ch.seq.windows.delay ≤ ch.est.stepTimer)

/-- The length of a TIMED or SCALED step has been reached (R33, R51). -/
def Channel.lengthDue (ch : Channel) : Bool :=
  ch.inMode StepMode.hasLength && decide (ch.seq.windows.length ≤ ch.est.stepTimer)

/-- The nonzero host limit of a HOSTED step has been reached (R35, R51). -/
def Channel.hostLimitDue (ch : Channel) : Bool :=
  ch.inMode StepMode.isHosted && ch.seq.windows.hostLimit != 0 && decide (ch.seq.windows.hostLimit ≤ ch.est.stepTimer)

/-- The deadline count of a pending graceful stop has reached its nonzero deadline (R85). -/
def Channel.deadlineDue (ch : Channel) : Bool :=
  match ch.seq.state with
  | .stopping g => g.deadline != 0 && decide (g.deadline ≤ g.count)
  | .idle | .running | .fault _ => false

/-- The blank end is found: edges begin to be delivered (R51, R74). -/
def State.findBlank (s : State) (c : ChannelId) : State :=
  let ch := s.channel c
  if ch.blankDue then s.withChannel c { ch with seq := { ch.seq with blankFound := true } } else s

/-- The forced advance rule (R31). -/
def State.forcedAdvance (s : State) (c : ChannelId) : State :=
  let ch := s.channel c
  let n := ch.est.forcedCount + 1
  if n = ch.settings.forcedLimit then
    (s.withChannel c { ch with est := { ch.est with forcedCount := n } }).faultEntry c .lostSense
  else
    (s.withChannel c { ch with est := { ch.est with forcedCount := n, spanValid := false } }).advanceStep c .forced

/-- The cause of an advance at the length (R33). -/
def Channel.lengthCause (ch : Channel) : AdvanceCause :=
  match ch.currentMode with
  | some (.scaled _) => .scaled
  | some (.timed _) | some (.hosted _) | some (.sensed _ _ _ _ _) | none => .timed

def State.findTimeout (s : State) (c : ChannelId) : State :=
  if (s.channel c).timeoutDue then s.forcedAdvance c else s

def State.findDelayEnd (s : State) (c : ChannelId) : State :=
  if (s.channel c).delayDue then s.advanceStep c .sensed else s

def State.findLength (s : State) (c : ChannelId) : State :=
  if (s.channel c).lengthDue then s.advanceStep c (s.channel c).lengthCause else s

def State.findHostLimit (s : State) (c : ChannelId) : State :=
  if (s.channel c).hostLimitDue then s.faultEntry c .hostTimeout else s

/-- The deadline is found (R85): the run ends, and the graceful STOP completes DEADLINE after the COMMIT_STEPS. -/
def State.findDeadline (s : State) (c : ChannelId) : State :=
  if (s.channel c).deadlineDue then
    (s.endRun c).completeStop (s.channel c).seq.state.graceful .deadline
  else s

/-- Whether the window that ends the current step has been reached. -/
def Channel.windowDue (ch : Channel) : Bool :=
  ch.timeoutDue || ch.delayDue || ch.lengthDue || ch.hostLimitDue

/-- The window that ends the current step, of whatever mode, is found. -/
def State.findWindow (s : State) (c : ChannelId) : State :=
  if (s.channel c).timeoutDue then s.forcedAdvance c
  else if (s.channel c).delayDue then s.advanceStep c .sensed
  else if (s.channel c).lengthDue then s.advanceStep c (s.channel c).lengthCause
  else if (s.channel c).hostLimitDue then s.faultEntry c .hostTimeout
  else s

/-- What the last tick reached and no command has found yet is found (log entry 4).
When a window and the deadline fall together either may be first (R85): the order is free. -/
def State.findAll (s : State) (c : ChannelId) : State :=
  let t := s.findBlank c
  if (t.channel c).windowDue && (t.channel c).deadlineDue then
    let u := { t with choice := t.choice + 1 }
    if Config.deadlineFirst t.choice then (u.findDeadline c).findWindow c else (u.findWindow c).findDeadline c
  else (t.findWindow c).findDeadline c

/-- One tick is counted by a RUNNING or STOPPING channel, after what the tick before it reached. -/
def State.countTick (s : State) (c : ChannelId) : State :=
  let t := s.findAll c
  if (t.channel c).isOn then t.withChannel c (t.channel c).countTick else t

/-! ### The PWM generator (R67, R68) -/

/-- The override at a period start: a staged one comes into force (R68 item 2). -/
def DutyOverride.begin : DutyOverride → DutyOverride
  | .none => .none
  | .staged d => .inForce d
  | .inForce d => .inForce d

/-- The duty a period runs on, before the limit of the period (R68 item 3). -/
def DutyOverride.dutyOr (duty : Nat) : DutyOverride → Nat
  | .inForce d => d
  | .none | .staged _ => duty

/-- A period start (R68), with the counter at 0. -/
def Pwm.periodStart (p : Pwm) (period : Nat) : Pwm :=
  let duty := p.shadow.getD p.duty
  { counter := 0, duty := duty, shadow := none, override := p.override.begin,
    periodDuty := min period (p.override.begin.dutyOr duty) }

end Sys2Proof.Machine
end

