-- ==== Sys2Proof/Machine/Control.lean ====
section
/-! DEFINITION. What the engine does to every block: giving up the commands in flight, the entry into FATAL, the start of a halt, and a reset. -/

namespace Sys2Proof.Machine

/-- An operation on each channel in the order C0, C1, C2, C3. -/
def State.forChannels (s : State) (f : State → ChannelId → State) : State :=
  (List.finRange 4).foldl f s

/-- A CLOSING queue whose CLOSE_SQ has been discarded stays CLOSING (R124, R136). -/
def SqContext.forgetCloser (x : SqContext) : SqContext :=
  match x.state with
  | .closing _ => { x with state := .closing none }
  | .closed | .opened | .broken => x

/-- Every command in flight is discarded with no completion, its owner gives it up, and no reservation remains (R10, R15, R19, R110, R124, R136, R156, R157).
DESIGN CHOICE (log entry 26): the fetch record is cleared at once; a begun fetch read is remembered by its transaction alone, until it ends. -/
def State.discardCommands (s : State) : State :=
  { s with
    slots := Table.fill 16 .free, cancels := [], fetch := none,
    sqs := s.sqs.map SqContext.forgetCloser,
    cqs := s.cqs.map fun x => { x with reserved := 0 },
    channels := s.channels.map fun ch => ch.withStandby ch.store.standby.giveUp }

/-- Begun transactions of discarded commands run on and their results are discarded (R110, R136, R137). -/
def discardUnlessCqWrite (t : Transaction) : Transaction :=
  if isCqWrite t.requester then t else t.discard

/-- The port at the entry into FATAL: transactions of commands still in the request list are withdrawn, CQ writes stay (R162). -/
def Port.atFatal (p : Port) : Port :=
  { requests := p.requests.filter fun t => isCqWrite t.requester, begun := p.begun.map discardUnlessCqWrite }

/-- The port at the start of a halt: the whole request list is withdrawn (R162). -/
def Port.atHalt (p : Port) : Port :=
  { requests := [], begun := p.begun.map discardUnlessCqWrite }

/-- The entry into FATAL (R179).
DEDUCED (log entry 11): the commands are discarded and the reservations cleared, then every running channel faults and offers its notice in the order C0 to C3. -/
def State.enterFatal (s : State) (cause : EngineCause) : State :=
  let t := { s.discardCommands with engine := { s.engine with state := .fatal, cause := cause } }
  (t.withPort t.port.atFatal).forChannels fun u c => u.faultEntry c .engine

/-- A channel at the start of a halt (R10, R23, R64, R80, R98). -/
def Channel.atHalt (ch : Channel) : Channel :=
  (((ch.leave .idle).clearForced.clearLoop.withHeld none).withLost 0).withStandby ch.store.standby.giveUp

/-- A completion queue at the start of a halt (R157): no reservation, and of its list only a record whose write has begun. -/
def CqContext.atHalt (x : CqContext) (writing : Bool) : CqContext :=
  { x with reserved := 0, list := if writing then x.list.take 1 else [] }

/-- The start of a halt (R176); it ends in the same event when no transaction is begun (R177). -/
def State.beginHalt (s : State) : State :=
  let t := s.discardCommands
  State.endHaltIfDone { t with
    engine := { s.engine with state := .halting },
    channels := s.channels.map Channel.atHalt,
    cqs := Vector.ofFn fun q => (s.cq q).atHalt (s.port.begun.any fun b => b.requester == .cqWrite q),
    vectors := { s.vectors with timers := Table.fill 8 none },
    port := s.port.atHalt }

/-- Every block takes its power-on values (R9, R22, R63, R79, R98, R110, R114, R138, R158, R162, R163, R181, R182).
The board's lines, the reset pin and the commands that wait are outside the part and stay. -/
def State.resetBlocks (s : State) (kind : LastReset) : State :=
  { State.reset with
    pending := s.pending, choice := s.choice, resetPin := s.resetPin, engine := .reset kind,
    channels := s.channels.map fun ch => .reset ch.sense.pins ch.sense.tripLine }

end Sys2Proof.Machine
end

