-- ==== Sys2Proof/Machine/CompletionCommands.lean ====
section
/-! DEFINITION. The completion writer's and vector unit's commands and events: OPEN_CQ, CLOSE_CQ, CQ_WRITE_DONE, CQ_WRITE_ERROR, ADMIN_WRITE_ERROR, COALESCING_TIMER_EXPIRY, RELEASE, VECTOR_STATUS, VECTOR_MASK (chapter 8). -/

namespace Sys2Proof.Machine

/-! ### The vector unit (R151, R152) -/

/-- The unsignalled count of a CQ becomes 0 and its timer stops, with no signal. -/
def VectorUnit.clearQueue (v : VectorUnit) (q : QueueId) : VectorUnit :=
  { v with unsignalled := v.unsignalled.write q 0, timers := v.timers.write q none }

/-- A CQ signals its vector (R152). -/
def VectorUnit.signal (v : VectorUnit) (q : QueueId) (n : Fin 4) : VectorUnit :=
  { v.clearQueue q with pending := v.pending ||| (1#4 <<< n.val) }

/-- A record that will not wait (R151 item 2). -/
def CqRecord.isUrgent : CqRecord → Bool
  | .channelNotice _ _ | .queueNotice _ _ _ => true
  | .commandDone _ _ _ _ _ | .stepReport _ _ => false

/-- The timer of a CQ after one more record: started from 0 when the count was 0 and the time is not 0 (R151 item 1). -/
def timerAfter (timer : Option Nat) (unsignalled time : Nat) : Option Nat :=
  if unsignalled = 0 ∧ time ≠ 0 then some 0 else timer

/-- The vector unit counts a record whose write has ended (R151). -/
def VectorUnit.count (v : VectorUnit) (q : QueueId) (x : CqContext) (r : CqRecord) : VectorUnit :=
  match x.vector with
  | none => v
  | some n =>
    let k := v.unsignalled.read q + 1
    let w := { v with unsignalled := v.unsignalled.write q k,
                      timers := v.timers.write q (timerAfter (v.timers.read q) (v.unsignalled.read q) x.time) }
    if x.threshold ≤ k ∨ r.isUrgent then w.signal q n else w

/-- The coalescing timer of a CQ expires (R151). -/
def State.expireTimer (s : State) (q : QueueId) : State :=
  match s.vectors.timers.read q, (s.cq q).vector with
  | some _, some n => s.withVectors (s.vectors.signal q n)
  | _, _ => s

/-- COALESCING_TIMER_EXPIRY (R151): no effect while the CQ's timer is stopped. -/
def execCoalescingTimerExpiry (q : QueueId) (s : State) : Host.Outcome State Fault Refusal :=
  atEvent (fun s => s.expireTimer q) s

/-- VECTOR_STATUS (R152): the pending flags written as 1 are cleared. -/
def execVectorStatus (clear : BitVec 4) (s : State) : Host.Outcome State Fault Refusal :=
  atEvent (fun s => s.withVectors { s.vectors with pending := s.vectors.pending &&& ~~~clear }) s

/-- VECTOR_MASK (R152): the mask flags take the written values. -/
def execVectorMask (mask : BitVec 4) (s : State) : Host.Outcome State Fault Refusal :=
  atEvent (fun s => s.withVectors { s.vectors with mask := mask }) s

/-! ### Opening and closing (R141, R142) -/

/-- OPEN_CQ at the completion writer (R141). -/
def State.openCq (queue vector threshold time : Byte) (size : Nat) (base : Addr) (k : SlotId) (s : State) : State :=
  match ioQueueOf queue with
  | none => s.complete k .invalidQueue 0
  | some q =>
    if (s.cq q).state ≠ .closed then s.complete k .invalidQueue 0
    else
      match vectorOf vector with
      | none => s.complete k .invalidField 0
      | some v =>
        if !(sizeInRange size && isAligned 64 base && inRange 1 64 threshold.toNat) then s.complete k .invalidField 0
        else if !inOneWindow s.windows .write base.toNat (16 * size) then s.complete k .accessDenied 0
        else
          ((s.withCq q { state := .opened, base := base, size := size, head := 0, tail := 0, pass := true, list := [],
                         reserved := 0, vector := v, threshold := threshold.toNat, time := time.toNat }).withVectors
            (s.vectors.clearQueue q)).complete k .success 0

/-- OPEN_CQ (R100, R141). -/
def execOpenCq (tag : BitVec 16) (queue vector threshold time : Byte) (size : BitVec 16) (base : Addr) (s : State) :
    Host.Outcome State Fault Refusal :=
  atEvent (fun s => s.dispatch .openCq tag 0 (State.openCq queue vector threshold time size.toNat base)) s

/-- Whether a submission queue in OPEN, CLOSING or BROKEN is bound to a CQ (R120, R142 check 3). -/
def State.isBound (s : State) (q : QueueId) : Bool :=
  (List.finRange 8).any fun i => (s.sq i).state != .closed && (s.sq i).boundCq == some q

/-- Whether a channel names a CQ as its report CQ, or holds a notice for it (R142 check 4). -/
def State.isReportCq (s : State) (q : QueueId) : Bool :=
  (List.finRange 4).any fun c => (s.channel c).settings.reportCq == some q ||
    match (s.channel c).seq.held with
    | some h => h.cq == q
    | none => false

/-- CLOSE_CQ at the completion writer (R142). -/
def State.closeCq (queue : Byte) (k : SlotId) (s : State) : State :=
  match ioQueueOf queue with
  | none => s.complete k .invalidQueue 0
  | some q =>
    if (s.cq q).state = .closed then s.complete k .invalidQueue 0
    else if s.isBound q || s.isReportCq q || !(s.cq q).list.isEmpty then s.complete k .stateConflict 0
    else
      ((s.withCq q { s.cq q with state := .closed }).withVectors (s.vectors.clearQueue q)).complete k .success 0

/-- CLOSE_CQ (R100, R142). -/
def execCloseCq (tag : BitVec 16) (queue : Byte) (s : State) : Host.Outcome State Fault Refusal :=
  atEvent (fun s => s.dispatch .closeCq tag 0 (State.closeCq queue)) s

/-! ### Ring writes (R147, R153, R154, R157) -/

/-- The tail and the pass marker after a write (R147 item 2). -/
def CqContext.afterWrite (x : CqContext) : CqContext :=
  { x with
    list := x.list.tail, tail := (x.tail + 1) % x.size,
    pass := if (x.tail + 1) % x.size = 0 then !x.pass else x.pass }

/-- A ring write ends (R147): the record leaves the list, the tail moves, the vector unit counts, the next write is handed.
While HALTING the vector unit does not count and no write follows (R157). -/
def State.cqWriteDone (s : State) (q : QueueId) : State :=
  if s.port.answers (.cqWrite q) then
    match (s.cq q).list with
    | r :: _ =>
      let t := (s.dropBegun (.cqWrite q)).withCq q (s.cq q).afterWrite
      if s.engine.state = .halting then t.endHaltIfDone
      else (t.withVectors (s.vectors.count q (s.cq q) r)).handCqWrite q
    | [] => s.endDiscarded (.cqWrite q)
  else s

/-- CQ_WRITE_DONE (R147). -/
def execCqWriteDone (q : QueueId) (s : State) : Host.Outcome State Fault Refusal :=
  atEvent (fun s => s.cqWriteDone q) s

/-- A held notice whose CQ breaks is discarded (R96, R153 item 3). -/
def Channel.dropHeldOn (q : QueueId) (ch : Channel) : Channel :=
  match ch.seq.held with
  | some h => if h.cq = q then ch.withHeld none else ch
  | none => ch

/-- A CQ becomes BROKEN (R153 items 1 to 3). -/
def State.breakCq (s : State) (q : QueueId) : State :=
  let t := (s.withCq q { s.cq q with state := .broken, list := [] }).withVectors (s.vectors.clearQueue q)
  { t with channels := t.channels.map (Channel.dropHeldOn q) }

/-- A failed ring write of an I/O CQ (R153); while HALTING it breaks nothing (R157).
DESIGN CHOICE (log entry 30): while HALTING the record whose write failed stays in the list until the halt ends. -/
def State.cqWriteError (s : State) (q : QueueId) : State :=
  if s.port.fails (.cqWrite q) then
    if s.engine.state = .halting then s.endDiscarded (.cqWrite q)
    else ((s.dropBegun (.cqWrite q)).breakCq q).offerQueueNotice q .cq .cqWriteError
  else s

/-- CQ_WRITE_ERROR (R153); the failed write of CQ0 is the row ADMIN_WRITE_ERROR. -/
def execCqWriteError (q : QueueId) (s : State) : Host.Outcome State Fault Refusal :=
  if q = 0 then .fault .illFormed else atEvent (fun s => s.cqWriteError q) s

/-- A failed ring write of CQ0 (R154, R180): CQ0 breaks, and a RUNNING engine goes FATAL.
DESIGN CHOICE (log entry 30): while HALTING the record whose write failed stays in the list until the halt ends. -/
def State.adminWriteError (s : State) : State :=
  if s.port.fails (.cqWrite 0) then
    if s.engine.state = .halting then s.endDiscarded (.cqWrite 0)
    else
      let t := (s.dropBegun (.cqWrite 0)).breakCq 0
      if s.engine.state = .running then t.enterFatal .adminWriteError else t
  else s

/-- ADMIN_WRITE_ERROR (R154). -/
def execAdminWriteError (s : State) : Host.Outcome State Fault Refusal :=
  atEvent State.adminWriteError s

/-! ### Release writes (R149, R150) -/

/-- Entries going round from one index to another (00, section 0.5.3). -/
def goRound (fromIx toIx size : Nat) : Nat := (toIx + size - fromIx) % size

/-- Whether a release write is accepted (R149); every release is refused while HALTING (R157). -/
def State.releaseAccepted (s : State) (q : QueueId) (head : Nat) : Bool :=
  let x := s.cq q
  s.engine.state != .halting && x.state == .opened && decide (head < x.size) &&
    decide (goRound x.head head x.size ≤ goRound x.head x.tail x.size)

/-- A release write at the completion writer (R149, R150): refused with BAD_RELEASE, or the head moves and freed room is offered to held notices. -/
def State.release (s : State) (q : QueueId) (head : Nat) : State :=
  if s.releaseAccepted q head then
    let t := s.withCq q { s.cq q with head := head }
    if head = (s.cq q).head then t else t.forChannels fun u c => u.offerHeld q c
  else s.offerQueueNotice q .cq .badRelease

/-- RELEASE (R149). -/
def execRelease (q : QueueId) (head : BitVec 10) (s : State) : Host.Outcome State Fault Refusal :=
  atEvent (fun s => s.release q head.toNat) s

end Sys2Proof.Machine
end

