-- ==== Sys2Proof/Machine/LineCommands.lean ====
section
/-! DEFINITION. The commands and events of the lines of a channel: SET_DUTY, PERIOD_START, SENSE_EDGE, TRIP (chapter 4). -/

namespace Sys2Proof.Machine

def Channel.withShadow (ch : Channel) (duty : Nat) : Channel :=
  { ch with pwm := { ch.pwm with shadow := some duty } }

/-- SET_DUTY at its PWM generator (R69). -/
def State.setDuty (duty : Nat) (c : ChannelId) (k : SlotId) (s : State) : State :=
  if 4096 < duty then s.complete k .invalidField 0
  else (s.withChannel c ((s.channel c).withShadow duty)).complete k .success 0

/-- SET_DUTY (R69, R100). -/
def execSetDuty (tag : BitVec 16) (channel : Byte) (duty : BitVec 16) (s : State) : Host.Outcome State Fault Refusal :=
  atEvent (fun s => s.dispatch .setDuty tag channel (onChannel channel (State.setDuty duty.toNat))) s

/-- The period counter wraps: a period start (R67, R68). -/
def Channel.periodStarted (ch : Channel) : Channel :=
  { ch with pwm := ch.pwm.periodStart ch.settings.period }

/-- PERIOD_START (R68), in every channel state. -/
def execPeriodStart (c : ChannelId) (s : State) : Host.Outcome State Fault Refusal :=
  atEvent (fun s => s.withChannel c (s.channel c).periodStarted) s

/-- SENSE_EDGE (R72, R74, R75): one sample of the channel's sense lines, which makes an edge where a run count reaches N.
DEDUCED (log entry 22): the row carries the sampled levels, so the samples that make no edge are this row too. -/
def execSenseEdge (c : ChannelId) (sample : Table 3 Level) (s : State) : Host.Outcome State Fault Refusal :=
  atEvent (fun s => s.sampleSense c sample) s

/-- The trip line is sampled at a level (R76). -/
def Channel.withTripLine (ch : Channel) (level : Level) : Channel :=
  { ch with sense := { ch.sense with tripLine := level } }

/-- A sample that finds the trip line active faults a RUNNING or STOPPING channel (R77). -/
def State.tripSampled (s : State) (c : ChannelId) : State :=
  if (s.channel c).tripActive then s.faultEntry c .trip else s

/-- TRIP (R77): a sample of the trip line at the given level. -/
def execTrip (c : ChannelId) (sample : Level) (s : State) : Host.Outcome State Fault Refusal :=
  atEvent (fun s => (s.withChannel c ((s.channel c).withTripLine sample)).tripSampled c) s

end Sys2Proof.Machine
end

