-- ==== Sys2Proof/Machine/SequencerCommands.lean ====
section
/-! DEFINITION. The sequencer's commands and events: START, STOP, ADVANCE, CLEAR_FAULT, BLANK_END, TIMEOUT, DELAY_END, LENGTH_END, HOST_LIMIT_EXPIRY, DEADLINE, SPAN_COUNTER_SATURATION, TICK (chapters 2, 3 and 5). -/

namespace Sys2Proof.Machine

/-- A channel started on step 0 with an initial reference (R25, R48, R52). -/
def Channel.started (ch : Channel) (reference : Nat) : Channel :=
  Channel.enter
    { ch with
      est := { ch.est with reference := reference, forcedCount := 0, spanValid := false, spanCounter := 0,
                           divider := some 0 },
      seq := { ch.seq with state := .running, cycle := 0, loopOwner := none, loopCounter := 0 } } 0

/-- START at its sequencer (R24, R25). -/
def State.start (reference : Nat) (c : ChannelId) (k : SlotId) (s : State) : State :=
  let ch := s.channel c
  if reference = 0 then s.complete k .invalidField 0
  else if ch.seq.state ≠ .idle then s.complete k .stateConflict 0
  else if !ch.store.activeValid then s.complete k .stateConflict 0
  else if ch.tripActive then s.complete k .tripActive 0
  else (s.withChannel c (ch.started reference)).complete k .success 0

/-- START (R24, R25, R100). -/
def execStart (tag : BitVec 16) (channel : Byte) (reference : BitVec 16) (s : State) : Host.Outcome State Fault Refusal :=
  atEvent (fun s => s.dispatch .start tag channel (onChannel channel (State.start reference.toNat))) s

/-- An AT_MARK STOP makes the channel STOPPING (R84). -/
def Channel.stopAtMark (ch : Channel) (deadline : Nat) (k : SlotId) : Channel :=
  { ch with seq := { ch.seq with state := .stopping { deadline := deadline, count := 0, slot := k } } }

/-- An immediate STOP ends the run (R83): a swap taken, the pending graceful STOP OVERTAKEN, then its own SUCCESS. -/
def State.stopNow (s : State) (c : ChannelId) (k : SlotId) : State :=
  ((s.endRun c).completeStop (s.channel c).seq.state.graceful .overtaken).complete k .success 0

/-- STOP at its sequencer, by mode and channel state (R81). -/
def State.stop (mode : Option StopMode) (deadline : Nat) (c : ChannelId) (k : SlotId) (s : State) : State :=
  match mode, (s.channel c).seq.state with
  | none, _ => s.complete k .invalidField 0
  | some _, .idle => s.complete k .success 0
  | some _, .fault _ => s.complete k .stateConflict 0
  | some .immediate, .running => s.stopNow c k
  | some .immediate, .stopping _ => s.stopNow c k
  | some .atMark, .running => s.withChannel c ((s.channel c).stopAtMark deadline k)
  | some .atMark, .stopping _ => s.complete k .stateConflict 0

/-- STOP (R81, R100). -/
def execStop (tag : BitVec 16) (channel mode : Byte) (deadline : BitVec 16) (s : State) : Host.Outcome State Fault Refusal :=
  atEvent (fun s => s.dispatch .stop tag channel (onChannel channel (State.stop (stopModeOf mode) deadline.toNat))) s

/-- The detail of a successful ADVANCE: the step entered, or 16 when the channel went IDLE (R36). -/
def Channel.advanceDetail (ch : Channel) : Nat :=
  match ch.entered with
  | some i => i.val
  | none => 16

/-- ADVANCE at its sequencer (R36): its completion follows what its advance hands (R45). -/
def State.advance (c : ChannelId) (k : SlotId) (s : State) : State :=
  if (s.channel c).inMode StepMode.isHosted then
    let t := s.advanceStep c .hosted
    t.complete k .success (t.channel c).advanceDetail
  else s.complete k .stateConflict 0

/-- ADVANCE (R36, R100). -/
def execAdvance (tag : BitVec 16) (channel : Byte) (s : State) : Host.Outcome State Fault Refusal :=
  atEvent (fun s => s.dispatch .advance tag channel (onChannel channel State.advance)) s

/-- A cleared channel (R97 item 3). -/
def Channel.cleared (ch : Channel) : Channel :=
  Channel.clearLoop (Channel.clearForced { ch with seq := { ch.seq with state := .idle } })

/-- CLEAR_FAULT at its sequencer (R97). -/
def State.clearFault (c : ChannelId) (k : SlotId) (s : State) : State :=
  let ch := s.channel c
  if ch.seq.state.cause.isNone then s.complete k .stateConflict 0
  else if ch.tripActive then s.complete k .tripActive 0
  else (s.withChannel c ch.cleared).complete k .success 0

/-- CLEAR_FAULT (R97, R100). -/
def execClearFault (tag : BitVec 16) (channel : Byte) (s : State) : Host.Outcome State Fault Refusal :=
  atEvent (fun s => s.dispatch .clearFault tag channel (onChannel channel State.clearFault)) s

/-- BLANK_END (R51, R74): no effect unless the blank end is due. -/
def execBlankEnd (c : ChannelId) (s : State) : Host.Outcome State Fault Refusal :=
  atEvent (fun s => s.findBlank c) s

/-- TIMEOUT (R31): no effect unless the timeout is due. -/
def execTimeout (c : ChannelId) (s : State) : Host.Outcome State Fault Refusal :=
  atEvent (fun s => s.findTimeout c) s

/-- DELAY_END (R30): no effect unless the delay end is due. -/
def execDelayEnd (c : ChannelId) (s : State) : Host.Outcome State Fault Refusal :=
  atEvent (fun s => s.findDelayEnd c) s

/-- LENGTH_END (R33): no effect unless the length is due. -/
def execLengthEnd (c : ChannelId) (s : State) : Host.Outcome State Fault Refusal :=
  atEvent (fun s => s.findLength c) s

/-- HOST_LIMIT_EXPIRY (R35): no effect unless the host limit is due. -/
def execHostLimitExpiry (c : ChannelId) (s : State) : Host.Outcome State Fault Refusal :=
  atEvent (fun s => s.findHostLimit c) s

/-- DEADLINE (R85): no effect unless the deadline is due. -/
def execDeadline (c : ChannelId) (s : State) : Host.Outcome State Fault Refusal :=
  atEvent (fun s => s.findDeadline c) s

/-- A tick restarts the count of system clocks toward the next tick (R48). -/
def Channel.dividerRestarted (ch : Channel) : Channel :=
  { ch with est := { ch.est with divider := ch.est.divider.map fun _ => 0 } }

/-- TICK at a channel (R48): what the tick before it reached is found, then the tick is counted. -/
def State.tick (s : State) (c : ChannelId) : State :=
  let t := s.countTick c
  t.withChannel c (t.channel c).dividerRestarted

/-- The span counter at its hold: 65535 and invalid (R52). -/
def Channel.spanSaturated (ch : Channel) : Channel :=
  { ch with est := { ch.est with spanValid := false } }

/-- The span counter of a running channel reaches 65535 (R52).
DESIGN CHOICE (log entry 5): at 65534 it is the tick that brings it there, at 65535 the mark of that tick again, below 65534 nothing. -/
def State.saturateSpan (s : State) (c : ChannelId) : State :=
  if !(s.channel c).isOn then s
  else if (s.channel c).est.spanCounter = 65534 then s.tick c
  else if (s.channel c).est.spanCounter = 65535 then s.withChannel c (s.channel c).spanSaturated
  else s

/-- SPAN_COUNTER_SATURATION (R52). -/
def execSpanCounterSaturation (c : ChannelId) (s : State) : Host.Outcome State Fault Refusal :=
  atEvent (fun s => s.saturateSpan c) s

/-- TICK (R48). -/
def execTick (c : ChannelId) (s : State) : Host.Outcome State Fault Refusal :=
  atEvent (fun s => s.tick c) s

end Sys2Proof.Machine
end

