-- ==== Sys2Proof/Machine/Clock.lean ====
section
/-! DEFINITION. One system clock, which passes when no command waits: what it counts and samples, and the events those counts reach (R48, R67, R72, R76, R151). -/

namespace Sys2Proof.Machine

/-- The PWM period counter at one clock (R67): when it would pass the period it returns to 0, a period start. -/
def Channel.pwmClock (ch : Channel) : Channel :=
  if ch.pwm.counter + 1 < ch.settings.period then { ch with pwm := { ch.pwm with counter := ch.pwm.counter + 1 } }
  else ch.periodStarted

def Channel.withDivider (ch : Channel) (n : Nat) : Channel :=
  { ch with est := { ch.est with divider := some n } }

/-- The tick divider at one clock (R48): every 2^p clocks a tick is issued, counted, and what it reaches is found.
What the tick finds is an event after what stood due before it, so the steps of R128 and R160 come between. -/
def State.dividerClock (s : State) (c : ChannelId) : State :=
  match (s.channel c).est.divider with
  | none => s
  | some n =>
    if n + 1 < (s.channel c).settings.clocksPerTick then s.withChannel c ((s.channel c).withDivider (n + 1))
    else ((s.withChannel c ((s.channel c).withDivider 0)).countTick c).settle.findAll c

/-- One tick of the engine timebase at a CQ's timer, which expires at the coalescing time (R151). -/
def State.timerTick (s : State) (q : QueueId) : State :=
  match s.vectors.timers.read q with
  | none => s
  | some n =>
    let t := s.withVectors { s.vectors with timers := s.vectors.timers.write q (some (n + 1)) }
    if (s.cq q).time ≤ n + 1 then t.expireTimer q else t

/-- The engine timebase at one clock (R151): every microsecond each running coalescing timer counts one. -/
def State.timebaseClock (s : State) : State :=
  if s.vectors.timebase + 1 < Config.clocksPerMicrosecond then
    s.withVectors { s.vectors with timebase := s.vectors.timebase + 1 }
  else (List.finRange 8).foldl State.timerTick (s.withVectors { s.vectors with timebase := 0 })

/-- What one entry of the clock does. -/
def State.clockEvent (s : State) : ClockEvent → State
  | .tripSample c => s.tripSampled c
  | .senseSample c => s.sampleSense c (s.channel c).sense.pins
  | .pwmClock c => s.withChannel c (s.channel c).pwmClock
  | .dividerClock c => s.dividerClock c
  | .timebase => s.timebaseClock

/-- Everything one system clock reaches, once each. -/
def clockEvents : List ClockEvent :=
  (List.finRange 4).flatMap (fun c =>
    [.tripSample c, .senseSample c, .pwmClock c, .dividerClock c]) ++ [.timebase]

/-- A list with its later repeats left out. -/
def firsts : List ClockEvent → List ClockEvent → List ClockEvent
  | _, [] => []
  | seen, e :: rest => if seen.contains e then firsts seen rest else e :: firsts (e :: seen) rest

/-- The events of one clock in a given order: those it names first, in its order, then the others, each once. -/
def orderedBy (order : List ClockEvent) : List ClockEvent := firsts [] (order ++ clockEvents)

/-- One system clock (log entry 3), its events in the free order of Config.
Each is an event of its own: the fetch start and the beginnings that are due are made before it (R128, R160).
Nothing is counted while the reset pin is asserted (R182). -/
def State.clock (s : State) : State :=
  if s.resetPin then s
  else
    (orderedBy (Config.clockOrder s.choice)).foldl (fun t e => t.settle.clockEvent e) { s with choice := s.choice + 1 }

end Sys2Proof.Machine
end

