-- ==== Sys2Proof/Machine/EngineCommands.lean ====
section
/-! DEFINITION. Engine control: ENABLE, HALT, HALT_END, ADMIN_REGISTER_WRITE, REGISTER_WRITE_IGNORED, SOFT_RESET, POWER_ON_RESET, PIN_RESET, RESET_PIN_RELEASE (chapter 10). -/

namespace Sys2Proof.Machine

/-- The checks of an enable (R173). -/
def Engine.adminValid (e : Engine) : Bool :=
  inRange 4 256 e.adminSqSize.toNat && inRange 4 256 e.adminCqSize.toNat &&
    isAligned 64 e.adminSqBase && isAligned 64 e.adminCqBase &&
    decide (e.adminSqBase.toNat + 32 * e.adminSqSize.toNat ≤ 2 ^ 64) &&
    decide (e.adminCqBase.toNat + 16 * e.adminCqSize.toNat ≤ 2 ^ 64)

/-- SQ0 as the enable opens it (R121). -/
def Engine.adminSq (e : Engine) : SqContext :=
  { state := .opened, base := e.adminSqBase, size := e.adminSqSize.toNat, head := 0, tail := 0,
    boundCq := some 0, priority := .admin }

/-- CQ0 as the enable opens it (R140). -/
def Engine.adminCq (e : Engine) : CqContext :=
  { state := .opened, base := e.adminCqBase, size := e.adminCqSize.toNat, head := 0, tail := 0, pass := true,
    list := [], reserved := 0, vector := some 0, threshold := 1, time := 0 }

/-- CQ0's unsignalled count is 0 with its timer stopped at the enable (R140). -/
def VectorUnit.openAdmin (v : VectorUnit) : VectorUnit :=
  { v with unsignalled := v.unsignalled.write 0 0, timers := v.timers.write 0 none }

/-- An enable whose checks pass (R174). -/
def State.openAdmin (s : State) : State :=
  ((State.withSq { s with engine := { s.engine with state := .running, cause := .none } } 0 s.engine.adminSq).withCq 0
    s.engine.adminCq).withVectors s.vectors.openAdmin

/-- A write of RUN as 1 (R172 to R174): an enable in HALTED, no effect in the other states. -/
def State.enable (s : State) : State :=
  if s.engine.state ≠ .halted then s
  else if s.engine.adminValid then s.openAdmin
  else { s with engine := { s.engine with cause := .adminConfig } }

/-- ENABLE (R172, R173). -/
def execEnable (s : State) : Host.Outcome State Fault Refusal :=
  atEvent State.enable s

/-- A write of RUN as 0 (R172, R176): a halt begins in RUNNING and FATAL, no effect in the other states. -/
def State.haltWrite (s : State) : State :=
  match s.engine.state with
  | .running => s.beginHalt
  | .fatal => s.beginHalt
  | .halted => s
  | .halting => s

/-- HALT (R176). -/
def execHalt (s : State) : Host.Outcome State Fault Refusal :=
  atEvent State.haltWrite s

/-- The last begun transaction ends during a halt, and the halt ends (R177); with more than one begun nothing ends. -/
def State.haltEnd (s : State) : State :=
  if s.engine.state = .halting ∧ s.port.begun.length ≤ 1 then
    (s.withPort { s.port with begun := [] }).endHalt
  else s

/-- HALT_END (R177). -/
def execHaltEnd (s : State) : Host.Outcome State Fault Refusal :=
  atEvent State.haltEnd s

/-- An admin ring register takes a written value (R175, R188). -/
def Engine.withRegister (e : Engine) (value : BitVec 32) : AdminRegister → Engine
  | .sqBaseLow => { e with adminSqBase := e.adminSqBase.extractLsb' 32 32 ++ value }
  | .sqBaseHigh => { e with adminSqBase := value ++ e.adminSqBase.extractLsb' 0 32 }
  | .cqBaseLow => { e with adminCqBase := e.adminCqBase.extractLsb' 32 32 ++ value }
  | .cqBaseHigh => { e with adminCqBase := value ++ e.adminCqBase.extractLsb' 0 32 }
  | .sizes => { e with adminSqSize := value.extractLsb' 0 9, adminCqSize := value.extractLsb' 16 9 }

/-- A write of an admin ring register, stored only in HALTED (R175). -/
def State.adminWrite (s : State) (r : AdminRegister) (value : BitVec 32) : State :=
  if s.engine.state = .halted then { s with engine := s.engine.withRegister value r } else s

/-- ADMIN_REGISTER_WRITE (R175). -/
def execAdminRegisterWrite (r : AdminRegister) (value : BitVec 32) (s : State) : Host.Outcome State Fault Refusal :=
  atEvent (fun s => s.adminWrite r value) s

/-- REGISTER_WRITE_IGNORED (R188): no effect; an offset whose writes are taken belongs to another row. -/
def execRegisterWriteIgnored (offset : BitVec 6) (_value : BitVec 32) (s : State) : Host.Outcome State Fault Refusal :=
  if isIgnoredOffset offset then atEvent (fun s => s) s else .fault .illFormed

/-- SOFT_RESET (R172, R181): in every engine state, whatever RUN is written as; ignored while the reset pin is asserted (R182). -/
def execSoftReset (_run : Bool) (s : State) : Host.Outcome State Fault Refusal :=
  .next (if s.resetPin then s else s.resetBlocks .soft)

/-- POWER_ON_RESET (R182). -/
def execPowerOnReset (s : State) : Host.Outcome State Fault Refusal :=
  .next (s.resetBlocks .powerOn)

/-- PIN_RESET (R182): the pin is asserted and the part is held at its power-on values. -/
def execPinReset (s : State) : Host.Outcome State Fault Refusal :=
  .next { s.resetBlocks .powerOn with resetPin := true }

/-- RESET_PIN_RELEASE (R182): the part leaves the held reset state. -/
def execResetPinRelease (s : State) : Host.Outcome State Fault Refusal :=
  .next { s with resetPin := false }

end Sys2Proof.Machine
end

