-- ==== Sys2Proof/Machine/FetchCommands.lean ====
section
/-! DEFINITION. The fetch unit's commands and events: OPEN_SQ, CLOSE_SQ, FETCH_START, FETCH_READ_ERROR, ADMIN_FETCH_ERROR, POST (chapter 7). -/

namespace Sys2Proof.Machine

/-- OPEN_SQ at the fetch unit, its five checks in order (R122). -/
def State.openSq (queue boundCq priority : Byte) (size : Nat) (base : Addr) (k : SlotId) (s : State) : State :=
  match ioQueueOf queue with
  | none => s.complete k .invalidQueue 0
  | some q =>
    if (s.sq q).state ≠ .closed then s.complete k .invalidQueue 0
    else
      match priorityOf priority with
      | none => s.complete k .invalidField 0
      | some p =>
        if !(sizeInRange size && isAligned 64 base) then s.complete k .invalidField 0
        else
          match ioQueueOf boundCq with
          | none => s.complete k .invalidQueue 0
          | some b =>
            if (s.cq b).state ≠ .opened then s.complete k .invalidQueue 0
            else if !inOneWindow s.windows .read base.toNat (32 * size) then s.complete k .accessDenied 0
            else
              (s.withSq q { state := .opened, base := base, size := size, head := 0, tail := 0,
                            boundCq := some b, priority := p }).complete k .success 0

/-- OPEN_SQ (R100, R122). -/
def execOpenSq (tag : BitVec 16) (queue boundCq priority : Byte) (size : BitVec 16) (base : Addr) (s : State) :
    Host.Outcome State Fault Refusal :=
  atEvent (fun s => s.dispatch .openSq tag 0 (State.openSq queue boundCq priority size.toNat base)) s

/-- A CLOSE_SQ that passes its checks closes the queue at once, or puts it in CLOSING while slots hold its id (R123). -/
def State.beginClose (s : State) (q : QueueId) (k : SlotId) : State :=
  if s.sqInUse q then s.withSq q { s.sq q with state := .closing (some k) }
  else (s.withSq q { s.sq q with state := .closed }).complete k .success 0

/-- CLOSE_SQ at the fetch unit (R123). -/
def State.closeSq (queue : Byte) (k : SlotId) (s : State) : State :=
  match ioQueueOf queue with
  | none => s.complete k .invalidQueue 0
  | some q =>
    match (s.sq q).state with
    | .closed => s.complete k .invalidQueue 0
    | .closing _ => s.complete k .stateConflict 0
    | .opened => s.beginClose q k
    | .broken => s.beginClose q k

/-- CLOSE_SQ (R100, R123). -/
def execCloseSq (tag : BitVec 16) (queue : Byte) (s : State) : Host.Outcome State Fault Refusal :=
  atEvent (fun s => s.dispatch .closeSq tag 0 (State.closeSq queue)) s

/-- FETCH_START (R128 to R130): no effect unless the fetch unit is idle with an eligible queue. -/
def execFetchStart (s : State) : Host.Outcome State Fault Refusal :=
  .next (if s.resetPin then s else s.startFetch)

/-- The slot of a failed fetch becomes FREE, and its reservation returns to the CQ it was made in (R107, R132 item 2). -/
def State.freeFetchSlot (s : State) (k : SlotId) : State :=
  match s.slot k with
  | .fetching _ _ b => (s.withCq b { s.cq b with reserved := (s.cq b).reserved - 1 }).withSlot k .free
  | .free | .working _ => s

/-- A failed fetch read breaks its queue, frees the slot and offers the notice (R132 and R133, items 1 to 3). -/
def State.failFetch (s : State) (f : FetchRecord) : State :=
  let t := ((s.dropBegun (.fetch f.sq)).withSq f.sq { s.sq f.sq with state := .broken }).freeFetchSlot f.slot
  { t with fetch := none }.offerQueueNotice f.sq .sq .sqFetchError

/-- The fetch record when its read may fail now. -/
def State.failingFetch (s : State) : Option FetchRecord :=
  match s.fetch with
  | some f => if s.port.fails (.fetch f.sq) then some f else none
  | none => none

/-- A failed fetch read of an I/O queue (R132). -/
def State.fetchReadError (s : State) : State :=
  match s.failingFetch with
  | some f => if f.sq = 0 then s else s.failFetch f
  | none => s.dropDiscardedFetch

/-- FETCH_READ_ERROR (R132). -/
def execFetchReadError (s : State) : Host.Outcome State Fault Refusal :=
  atEvent State.fetchReadError s

/-- A failed fetch read of SQ0 (R133): the queue breaks and the engine goes FATAL. -/
def State.adminFetchError (s : State) : State :=
  match s.failingFetch with
  | some f => if f.sq = 0 then (s.failFetch f).enterFatal .adminFetchError else s
  | none => s.dropDiscardedFetch

/-- ADMIN_FETCH_ERROR (R133). -/
def execAdminFetchError (s : State) : Host.Outcome State Fault Refusal :=
  atEvent State.adminFetchError s

/-- A post write at the fetch unit (R125); every post write is ignored while HALTING (R137). -/
def State.post (s : State) (q : QueueId) (tail : Nat) : State :=
  if s.engine.state ≠ .halting ∧ (s.sq q).state = .opened ∧ tail < (s.sq q).size then s.withSq q { s.sq q with tail := tail }
  else s.offerQueueNotice q .sq .badPost

/-- POST (R125). -/
def execPost (q : QueueId) (tail : BitVec 10) (s : State) : Host.Outcome State Fault Refusal :=
  atEvent (fun s => s.post q tail.toNat) s

end Sys2Proof.Machine
end

