-- ==== Sys2Proof/Machine/PortCommands.lean ====
section
/-! DEFINITION. The commands and events of the bus master port and the window checker: SET_WINDOW, PORT_BEGIN_TRANSACTION, DISCARDED_TRANSACTION_END (chapter 9). -/

namespace Sys2Proof.Machine

/-- The window a SET_WINDOW writes, or none when its fields fail check 1 (R168). -/
def windowFrom (rights : Byte) (length : Nat) (base : Addr) : Option Window :=
  if length = 0 then some .disabled
  else
    match rightsOf rights with
    | none => none
    | some (r, w) =>
      if length % 64 = 0 ∧ length ≤ 4294967232 ∧ isAligned 64 base ∧ base.toNat + length ≤ 2 ^ 64 then
        some { base := base, length := length, grantsRead := r, grantsWrite := w }
      else none

/-- Whether every open I/O ring lies within a window of a table (R168 check 3). -/
def State.ringsCovered (s : State) (ws : Table 4 Window) : Bool :=
  (List.finRange 8).all fun q => q == 0 ||
    (((s.sq q).state != .opened || inOneWindow ws .read (s.sq q).base.toNat (32 * (s.sq q).size)) &&
     ((s.cq q).state != .opened || inOneWindow ws .write (s.cq q).base.toNat (16 * (s.cq q).size)))

/-- Whether a LOAD_STEPS or READ_CHANNEL is WORKING (R168 check 2). -/
def State.dataInFlight (s : State) : Bool := (List.finRange 16).any fun k => (s.slot k).movesData

/-- SET_WINDOW at the window checker (R168). -/
def State.setWindow (number rights : Byte) (length : Nat) (base : Addr) (k : SlotId) (s : State) : State :=
  match windowOf number, windowFrom rights length base with
  | some n, some w =>
    if s.dataInFlight || !s.ringsCovered (s.windows.write n w) then s.complete k .stateConflict 0
    else State.complete { s with windows := s.windows.write n w } k .success 0
  | _, _ => s.complete k .invalidField 0

/-- SET_WINDOW (R100, R168). -/
def execSetWindow (tag : BitVec 16) (number rights : Byte) (length : BitVec 32) (base : Addr) (s : State) :
    Host.Outcome State Fault Refusal :=
  atEvent (fun s => s.dispatch .setWindow tag 0 (State.setWindow number rights length.toNat base)) s

/-- PORT_BEGIN_TRANSACTION (R160, R167): no effect with an empty request list or four begun. -/
def execPortBeginTransaction (s : State) : Host.Outcome State Fault Refusal :=
  .next (if s.resetPin then s else s.beginTransaction)

/-- A load that waited for a cancelled load's read may issue its own (R11, R15). -/
def State.afterDiscarded (s : State) : Requester → State
  | .load c => s.issueLoadRead c
  | .fetch _ | .snapshot _ | .cqWrite _ => s

/-- A begun transaction whose command was discarded ends (R10, R15, R137, R162): its result is discarded.
DESIGN CHOICE (log entry 31): a CQ write belongs to no command, so during a halt it ends by its own rows and this row leaves it. -/
def State.discardedEnd (s : State) (r : Requester) : State :=
  if s.port.hasDiscarded r then (s.endDiscarded r).afterDiscarded r else s

/-- DISCARDED_TRANSACTION_END (R162): no effect unless the begun set holds such a transaction. -/
def execDiscardedTransactionEnd (r : Requester) (s : State) : Host.Outcome State Fault Refusal :=
  atEvent (fun s => s.discardedEnd r) s

end Sys2Proof.Machine
end

