-- ==== Sys2Proof/Machine/StepStoreCommands.lean ====
section
/-! DEFINITION. The step store's commands and events: LOAD_STEPS, COMMIT_STEPS, LOAD_RECORD_ARRIVAL, LOAD_READ_BUS_ERROR (chapter 1). -/

namespace Sys2Proof.Machine

/-- Check 1 of a LOAD_STEPS (R11). -/
def loadFieldsValid (first count : Nat) (source : Addr) : Bool :=
  inRange 1 16 count && inRange 0 15 first && decide (first + count ≤ 16) && isAligned 16 source

/-- The prior state a load records, or none when the bank takes no load (R11 check 2). -/
def Standby.priorOf : Standby → Option Prior
  | .empty => some .empty
  | .ready => some .ready
  | .loading _ | .swapPending _ => none

/-- LOAD_STEPS at its step store (R11). -/
def State.loadSteps (first count : Nat) (clearRest : Bool) (source : Addr) (c : ChannelId) (k : SlotId) (s : State) : State :=
  if !loadFieldsValid first count source then s.complete k .invalidField 0
  else
    match (s.channel c).store.standby.priorOf with
    | none => s.complete k .stateConflict 0
    | some prior =>
      if !inOneWindow s.windows .read source.toNat (16 * count) then s.complete k .accessDenied 0
      else
        (s.withChannel c ((s.channel c).withStandby (.loading
          { slot := k, first := first, count := count, clearRest := clearRest, source := source,
            prior := prior, buffer := [] }))).issueLoadRead c

/-- LOAD_STEPS (R11, R100). -/
def execLoadSteps (tag : BitVec 16) (channel first count : Byte) (clearRest : Bool) (source : Addr) (s : State) :
    Host.Outcome State Fault Refusal :=
  atEvent (fun s => s.dispatch .loadSteps tag channel
    (onChannel channel (State.loadSteps first.toNat count.toNat clearRest source))) s

/-- COMMIT_STEPS at its step store (R16 to R18).
The check of R16, then the swap at once in IDLE or FAULT with the loop cleared (R17, R42), or a pending swap in RUNNING or STOPPING (R18). -/
def State.commitSteps (c : ChannelId) (k : SlotId) (s : State) : State :=
  let ch := s.channel c
  if ch.store.standby ≠ .ready then s.complete k .stateConflict 0
  else
    match Bank.lowestMissing ch.store.standbyBank with
    | some i => s.complete k .invalidStep i.val
    | none =>
      if ch.isOn then s.withChannel c (ch.withStandby (.swapPending k))
      else (s.withChannel c { ch.clearLoop with store := ch.store.swapAtOnce }).complete k .success 0

/-- COMMIT_STEPS (R16, R100). -/
def execCommitSteps (tag : BitVec 16) (channel : Byte) (s : State) : Host.Outcome State Fault Refusal :=
  atEvent (fun s => s.dispatch .commitSteps tag channel (onChannel channel State.commitSteps)) s

/-- A load ends as a failure (R14): the bank returns to its prior state, the buffer is emptied, the LOAD_STEPS completes. -/
def State.failLoad (s : State) (c : ChannelId) (l : Load) (status : Status) (detail : Nat) : State :=
  (s.withChannel c ((s.channel c).withStandby l.prior.toStandby)).complete l.slot status detail

/-- The standby bank is written and READY, and the LOAD_STEPS completes SUCCESS (R13). -/
def State.finishLoad (s : State) (c : ChannelId) (l : Load) (buffer : List StepRecord) : State :=
  let x := (s.channel c).store
  let y := { x with banks := x.banks.write (otherBank x.active) (l.write buffer x.standbyBank), standby := .ready }
  (s.withChannel c { s.channel c with store := y }).complete l.slot .success 0

/-- A record arrives for a load in flight (R12 to R14). -/
def State.takeStepRecord (s : State) (c : ChannelId) (l : Load) (bytes : Table 16 Byte) : State :=
  match stepRecordOf bytes with
  | none => s.failLoad c l .invalidStep (l.first + l.buffer.length)
  | some r =>
    if l.buffer.length + 1 = l.count then s.finishLoad c l (l.buffer ++ [r])
    else
      (s.withChannel c ((s.channel c).withStandby (.loading { l with buffer := l.buffer ++ [r] }))).issueLoadRead c

/-- The read of a cancelled or discarded load ends; a later load that waited for it issues its first read (R11, R15). -/
def State.endOldLoadRead (s : State) (c : ChannelId) : State :=
  (s.endDiscarded (.load c)).issueLoadRead c

/-- LOAD_RECORD_ARRIVAL at the step store (R12). -/
def State.loadRecordArrival (s : State) (c : ChannelId) (bytes : Table 16 Byte) : State :=
  if s.port.answers (.load c) then
    match (s.channel c).store.standby with
    | .loading l => (s.dropBegun (.load c)).takeStepRecord c l bytes
    | .empty | .ready | .swapPending _ => s.endDiscarded (.load c)
  else if s.port.hasDiscarded (.load c) then s.endOldLoadRead c
  else s

/-- LOAD_RECORD_ARRIVAL (R12). -/
def execLoadRecordArrival (c : ChannelId) (bytes : Table 16 Byte) (s : State) : Host.Outcome State Fault Refusal :=
  atEvent (fun s => s.loadRecordArrival c bytes) s

/-- LOAD_READ_BUS_ERROR at the step store (R14, R15). -/
def State.loadReadBusError (s : State) (c : ChannelId) : State :=
  if s.port.fails (.load c) then
    match (s.channel c).store.standby with
    | .loading l => (s.dropBegun (.load c)).failLoad c l .busError 0
    | .empty | .ready | .swapPending _ => s.endDiscarded (.load c)
  else if s.port.hasDiscarded (.load c) then s.endOldLoadRead c
  else s

/-- LOAD_READ_BUS_ERROR (R14). -/
def execLoadReadBusError (c : ChannelId) (s : State) : Host.Outcome State Fault Refusal :=
  atEvent (fun s => s.loadReadBusError c) s

end Sys2Proof.Machine
end

