-- ==== Sys2Proof/Machine/TableCommands.lean ====
section
/-! DEFINITION. The command table's commands and events: READ_CHANNEL, SET_CHANNEL, CANCEL, UNKNOWN_COMMAND, CANCEL_REQUEST, SNAPSHOT_WRITE_DONE, SNAPSHOT_WRITE_ERROR (chapter 6). -/

namespace Sys2Proof.Machine

/-- READ_CHANNEL at the command table (R117): checked, then one 32-byte write is handed. -/
def State.readChannel (destination : Addr) (k : SlotId) (s : State) : State :=
  if !isAligned 16 destination then s.complete k .invalidField 0
  else if !inOneWindow s.windows .write destination.toNat 32 then s.complete k .accessDenied 0
  else s.hand (.snapshot k) destination

/-- READ_CHANNEL (R100, R117). -/
def execReadChannel (tag : BitVec 16) (channel : Byte) (destination : Addr) (s : State) :
    Host.Outcome State Fault Refusal :=
  atEvent (fun s => s.dispatch .readChannel tag channel (State.readChannel destination)) s

/-- A channel with its settings written (R115): the PWM counter restarts with a period start of the new period (R71),
and the run counts become 0 (R73). -/
def Channel.withSettings (ch : Channel) (x : Settings) : Channel :=
  { ch with settings := x, pwm := ch.pwm.periodStart x.period, sense := { ch.sense with runs := Table.fill 3 0 } }

/-- A report CQ that is named is open and not BROKEN (R115 check 2). -/
def State.reportCqOpen (s : State) : Option QueueId → Bool
  | none => true
  | some q => (s.cq q).state == .opened

/-- SET_CHANNEL at the command table (R115). -/
def State.setChannel (x : Option Settings) (c : ChannelId) (k : SlotId) (s : State) : State :=
  match x with
  | none => s.complete k .invalidField 0
  | some x =>
    if !s.reportCqOpen x.reportCq then s.complete k .invalidQueue 0
    else if (s.channel c).seq.state ≠ .idle then s.complete k .stateConflict 0
    else (s.withChannel c ((s.channel c).withSettings x)).complete k .success 0

/-- SET_CHANNEL (R100, R115). -/
def execSetChannel (tag : BitVec 16) (channel prescale shift forcedLimit filter tripLevel reportCq : Byte)
    (minInterval period : BitVec 16) (s : State) : Host.Outcome State Fault Refusal :=
  atEvent (fun s => s.dispatch .setChannel tag channel (onChannel channel
    (State.setChannel (settingsOf prescale shift forcedLimit filter tripLevel reportCq minInterval period)))) s

/-- The age of a slot WORKING with an SQ id and tag (R111). -/
def Slot.matchAge (q : QueueId) (tag : BitVec 16) : Slot → Option Nat
  | .working w => if w.sq = q ∧ w.tag = tag then some w.age else none
  | .free | .fetching _ _ _ => none

/-- Of two candidate slots with their ages, the older. -/
def older : Option (SlotId × Nat) → Option (SlotId × Nat) → Option (SlotId × Nat)
  | none, y => y
  | some x, none => some x
  | some x, some y => if y.2 < x.2 then some y else some x

/-- The oldest WORKING slot, other than `k`, with an SQ id and tag (R111). -/
def State.oldestMatch (s : State) (k : SlotId) (q : QueueId) (tag : BitVec 16) : Option (SlotId × Nat) :=
  (List.finRange 16).foldl (fun acc i =>
    if i = k then acc else older acc (((s.slot i).matchAge q tag).map fun age => (i, age))) none

/-- Whether a slot is WORKING with a command a CANCEL can end (R111). -/
def Slot.isCancelable : Slot → Bool
  | .working w => w.code.isCancelable
  | .free | .fetching _ _ _ => false

/-- CANCEL at the command table (R111, R112): no such queue, no match, not cancelable, or a request handed to the owner. -/
def State.cancel (queue : Byte) (target : BitVec 16) (k : SlotId) (s : State) : State :=
  match queueOf queue with
  | none => s.complete k .invalidQueue 0
  | some q =>
    match s.oldestMatch k q target with
    | none => s.complete k .notFound 0
    | some (i, age) =>
      if (s.slot i).isCancelable then
        { s with cancels := s.cancels ++ [{ canceller := k, target := i, targetAge := age }] }
      else s.complete k .notCancelable 0

/-- CANCEL (R100, R111). -/
def execCancel (tag : BitVec 16) (queue : Byte) (target : BitVec 16) (s : State) : Host.Outcome State Fault Refusal :=
  atEvent (fun s => s.dispatch .cancel tag 0 (State.cancel queue target)) s

/-- UNKNOWN_COMMAND (R100 check 1); a known code belongs to another row. -/
def execUnknownCommand (tag : BitVec 16) (code : Byte) (s : State) : Host.Outcome State Fault Refusal :=
  if isCommandCode code then .fault .illFormed
  else atEvent (fun s => s.dispatch (.unknown code) tag 0 (fun k s => s.complete k .invalidOpcode 0)) s

/-- The WORKING command a cancel request is tied to, when its slot still holds the fetch that filled it (R112). -/
def State.cancelTarget (s : State) (x : CancelRequest) : Option Working :=
  match s.slot x.target with
  | .working w => if w.age = x.targetAge then some w else none
  | .free | .fetching _ _ _ => none

/-- The load of slot `k` is cancelled (R15): the bank returns to its prior state, and a read outstanding will be discarded. -/
def State.cancelLoad (s : State) (c : ChannelId) (l : Load) : State :=
  (s.withChannel c ((s.channel c).withStandby l.prior.toStandby)).withPort (s.port.discardOf (.load c))

/-- What a cancel request does at the target's owner when it finds the target still waiting, or none when it does not (R112, R15, R19, R87). -/
def State.withdraw (s : State) (c : ChannelId) (k : SlotId) : CommandCode → Option State
  | .loadSteps =>
    match (s.channel c).store.standby with
    | .loading l => if l.slot = k then some (s.cancelLoad c l) else none
    | .empty | .ready | .swapPending _ => none
  | .commitSteps =>
    if (s.channel c).store.standby = .swapPending k then some (s.withChannel c ((s.channel c).withStandby .ready)) else none
  | .stop =>
    match (s.channel c).seq.state with
    | .stopping g =>
      if g.slot = k then some (s.withChannel c { s.channel c with seq := { (s.channel c).seq with state := .running } })
      else none
    | .idle | .running | .fault _ => none
  | .openSq | .closeSq | .openCq | .closeCq | .setWindow | .setChannel | .cancel | .start | .advance | .clearFault
  | .setDuty | .readChannel | .unknown _ => none

/-- The owner takes a cancel request (R112): ABORTED for the target and then SUCCESS for the CANCEL, or NOT_FOUND for the CANCEL. -/
def State.takeCancel (s : State) (x : CancelRequest) : State :=
  let waiting :=
    match s.cancelTarget x with
    | some w =>
      match channelOf w.channel with
      | some c => s.withdraw c x.target w.code
      | none => none
    | none => none
  match waiting with
  | some t => (t.complete x.target .aborted 0).complete x.canceller .success 0
  | none => s.complete x.canceller .notFound 0

/-- The request of the CANCEL in a slot leaves the list and is taken; with no such request nothing happens. -/
def State.cancelRequest (s : State) (canceller : SlotId) : State :=
  match s.cancels.find? fun x => x.canceller == canceller with
  | some x => State.takeCancel { s with cancels := s.cancels.eraseP fun y => y.canceller == canceller } x
  | none => s

/-- CANCEL_REQUEST (R112). -/
def execCancelRequest (canceller : SlotId) (s : State) : Host.Outcome State Fault Refusal :=
  atEvent (fun s => s.cancelRequest canceller) s

/-- SNAPSHOT_WRITE_DONE at the command table (R117). -/
def State.snapshotDone (s : State) (k : SlotId) : State :=
  if s.port.answers (.snapshot k) then (s.dropBegun (.snapshot k)).complete k .success 0
  else if s.port.hasDiscarded (.snapshot k) then s.endDiscarded (.snapshot k)
  else s

/-- SNAPSHOT_WRITE_DONE (R117). -/
def execSnapshotWriteDone (k : SlotId) (s : State) : Host.Outcome State Fault Refusal :=
  atEvent (fun s => s.snapshotDone k) s

/-- SNAPSHOT_WRITE_ERROR at the command table (R117). -/
def State.snapshotFailed (s : State) (k : SlotId) : State :=
  if s.port.fails (.snapshot k) then (s.dropBegun (.snapshot k)).complete k .busError 0
  else if s.port.hasDiscarded (.snapshot k) then s.endDiscarded (.snapshot k)
  else s

/-- SNAPSHOT_WRITE_ERROR (R117). -/
def execSnapshotWriteError (k : SlotId) (s : State) : Host.Outcome State Fault Refusal :=
  atEvent (fun s => s.snapshotFailed k) s

end Sys2Proof.Machine
end

