-- ==== Sys2Proof/Machine/Dispatch.lean ====
section
/-! DEFINITION. One arm for each command of spec/opcode_table.json, in the order of the table. -/

namespace Sys2Proof.Machine

/-- What a command does to everything but the queue of waiting commands. -/
def exec (i : Instr) (s : State) : Host.Outcome State Fault Refusal :=
  match i with
  | .loadSteps tag channel first count clearRest source => Sys2Proof.Machine.execLoadSteps tag channel first count clearRest source s
  | .commitSteps tag channel => Sys2Proof.Machine.execCommitSteps tag channel s
  | .start tag channel reference => Sys2Proof.Machine.execStart tag channel reference s
  | .stop tag channel mode deadline => Sys2Proof.Machine.execStop tag channel mode deadline s
  | .advance tag channel => Sys2Proof.Machine.execAdvance tag channel s
  | .clearFault tag channel => Sys2Proof.Machine.execClearFault tag channel s
  | .setDuty tag channel duty => Sys2Proof.Machine.execSetDuty tag channel duty s
  | .readChannel tag channel destination => Sys2Proof.Machine.execReadChannel tag channel destination s
  | .openSq tag queue boundCq priority size base => Sys2Proof.Machine.execOpenSq tag queue boundCq priority size base s
  | .closeSq tag queue => Sys2Proof.Machine.execCloseSq tag queue s
  | .openCq tag queue vector threshold time size base => Sys2Proof.Machine.execOpenCq tag queue vector threshold time size base s
  | .closeCq tag queue => Sys2Proof.Machine.execCloseCq tag queue s
  | .setWindow tag number rights length base => Sys2Proof.Machine.execSetWindow tag number rights length base s
  | .setChannel tag channel prescale shift forcedLimit filter tripLevel reportCq minInterval period => Sys2Proof.Machine.execSetChannel tag channel prescale shift forcedLimit filter tripLevel reportCq minInterval period s
  | .cancel tag queue target => Sys2Proof.Machine.execCancel tag queue target s
  | .unknownCommand tag code => Sys2Proof.Machine.execUnknownCommand tag code s
  | .cancelRequest canceller => Sys2Proof.Machine.execCancelRequest canceller s
  | .fetchStart => Sys2Proof.Machine.execFetchStart s
  | .fetchReadError => Sys2Proof.Machine.execFetchReadError s
  | .adminFetchError => Sys2Proof.Machine.execAdminFetchError s
  | .loadRecordArrival c bytes => Sys2Proof.Machine.execLoadRecordArrival c bytes s
  | .loadReadBusError c => Sys2Proof.Machine.execLoadReadBusError c s
  | .portBeginTransaction => Sys2Proof.Machine.execPortBeginTransaction s
  | .snapshotWriteDone k => Sys2Proof.Machine.execSnapshotWriteDone k s
  | .snapshotWriteError k => Sys2Proof.Machine.execSnapshotWriteError k s
  | .cqWriteDone q => Sys2Proof.Machine.execCqWriteDone q s
  | .cqWriteError q => Sys2Proof.Machine.execCqWriteError q s
  | .adminWriteError => Sys2Proof.Machine.execAdminWriteError s
  | .discardedTransactionEnd r => Sys2Proof.Machine.execDiscardedTransactionEnd r s
  | .coalescingTimerExpiry q => Sys2Proof.Machine.execCoalescingTimerExpiry q s
  | .blankEnd c => Sys2Proof.Machine.execBlankEnd c s
  | .timeout c => Sys2Proof.Machine.execTimeout c s
  | .delayEnd c => Sys2Proof.Machine.execDelayEnd c s
  | .lengthEnd c => Sys2Proof.Machine.execLengthEnd c s
  | .hostLimitExpiry c => Sys2Proof.Machine.execHostLimitExpiry c s
  | .deadline c => Sys2Proof.Machine.execDeadline c s
  | .spanCounterSaturation c => Sys2Proof.Machine.execSpanCounterSaturation c s
  | .senseEdge c sample => Sys2Proof.Machine.execSenseEdge c sample s
  | .trip c sample => Sys2Proof.Machine.execTrip c sample s
  | .periodStart c => Sys2Proof.Machine.execPeriodStart c s
  | .post q tail => Sys2Proof.Machine.execPost q tail s
  | .release q head => Sys2Proof.Machine.execRelease q head s
  | .vectorStatus clear => Sys2Proof.Machine.execVectorStatus clear s
  | .vectorMask mask => Sys2Proof.Machine.execVectorMask mask s
  | .adminRegisterWrite r value => Sys2Proof.Machine.execAdminRegisterWrite r value s
  | .registerWriteIgnored offset value => Sys2Proof.Machine.execRegisterWriteIgnored offset value s
  | .enable => Sys2Proof.Machine.execEnable s
  | .halt => Sys2Proof.Machine.execHalt s
  | .haltEnd => Sys2Proof.Machine.execHaltEnd s
  | .softReset run => Sys2Proof.Machine.execSoftReset run s
  | .powerOnReset => Sys2Proof.Machine.execPowerOnReset s
  | .pinReset => Sys2Proof.Machine.execPinReset s
  | .tick c => Sys2Proof.Machine.execTick c s
  | .resetPinRelease => Sys2Proof.Machine.execResetPinRelease s

end Sys2Proof.Machine
end

