-- ==== Sys2Proof/Safety.lean ====
section
/-! DEFINITION. What a safe run of the part keeps: its ranges, its accounting, the relation between engine, queues, slots and channels. With them the terms the statements are written in. -/

namespace Sys2Proof.Machine

/-! ### Terms of the statements -/

/-- The indices reachable from step 0 (R16), as the rule builds them. -/
inductive StepReachable (b : Bank) : StepIx → Prop where
  | entry : StepReachable b 0
  | next {i : StepIx} {r : StepRecord} : StepReachable b i → b.read i = some r → StepReachable b r.next
  | branch {i : StepIx} {r : StepRecord} {x : Branch} :
      StepReachable b i → b.read i = some r → r.branch = some x → StepReachable b x.target

/-- A returned fetch brings a record with this code, tag and channel, which passes the checks of R100, to its owner:
`k` is its slot and `u` the state the owner finds (R131). -/
def State.Dispatches (s : State) (code : CommandCode) (tag : BitVec 16) (channel : Byte) (k : SlotId) (u : State) : Prop :=
  s.resetPin = false ∧ code.isUnknown = false ∧
    (code.readsChannel = true → (channelOf channel).isSome = true) ∧
    ∃ f, s.settle.returning = some f ∧ f.slot = k ∧ u = s.settle.takeRecord f code tag channel ∧
      (code.isAdminOnly = true → f.sq = 0)

/-- The code, the tag and the channel field of the record a row is, for the sixteen rows that are fetched records (R99). -/
def headerOf : Instr → Option (CommandCode × BitVec 16 × Byte)
  | .loadSteps tag channel _ _ _ _ => some (.loadSteps, tag, channel)
  | .commitSteps tag channel => some (.commitSteps, tag, channel)
  | .start tag channel _ => some (.start, tag, channel)
  | .stop tag channel _ _ => some (.stop, tag, channel)
  | .advance tag channel => some (.advance, tag, channel)
  | .clearFault tag channel => some (.clearFault, tag, channel)
  | .setDuty tag channel _ => some (.setDuty, tag, channel)
  | .readChannel tag channel _ => some (.readChannel, tag, channel)
  | .openSq tag _ _ _ _ _ => some (.openSq, tag, 0)
  | .closeSq tag _ => some (.closeSq, tag, 0)
  | .openCq tag _ _ _ _ _ _ => some (.openCq, tag, 0)
  | .closeCq tag _ => some (.closeCq, tag, 0)
  | .setWindow tag _ _ _ _ => some (.setWindow, tag, 0)
  | .setChannel tag channel _ _ _ _ _ _ _ _ => some (.setChannel, tag, channel)
  | .cancel tag _ _ => some (.cancel, tag, 0)
  | .unknownCommand tag code => some (.unknown code, tag, 0)
  | _ => none

/-- The parameter and address bytes R186 names for a command code, beside code, tag and channel. -/
def readsByte (code : Byte) (j : Nat) : Bool :=
  if code = 0x01 then (8 ≤ j && j ≤ 18) || j == 20 || j == 21
  else if code = 0x03 then (8 ≤ j && j ≤ 21)
  else if code = 0x05 then (8 ≤ j && j ≤ 17) || (20 ≤ j && j ≤ 23)
  else if code = 0x06 then j == 4 || (16 ≤ j && j ≤ 25)
  else if code = 0x07 then j == 16 || j == 18 || j == 19
  else if code = 0x10 then j == 4 || (8 ≤ j && j ≤ 17)
  else if code = 0x12 || code = 0x16 then j == 4 || j == 16 || j == 17
  else if code = 0x13 then j == 4 || j == 16 || j == 18 || j == 19
  else if code = 0x17 then j == 4 || (8 ≤ j && j ≤ 15)
  else if code = 0x02 || code = 0x04 then j == 16
  else if code = 0x11 || code = 0x14 || code = 0x15 then j == 4
  else false

/-- A leg state's code in a step record (R184, R185). -/
def LegState.toCode : LegState → Nat
  | .float => 0
  | .upperOn => 1
  | .lowerOn => 2
  | .upperPwm => 3
  | .lowerPwm => 4
  | .pairPwm => 5

/-- An edge kind's code in a step record (R184, R185). -/
def EdgeKind.toCode : EdgeKind → Nat
  | .rising => 0
  | .falling => 1
  | .either => 2

/-- Step `i` has been entered with record `r` on a channel that stood as `ch` (R26), the windows being `w`. -/
def Channel.entering (ch : Channel) (i : StepIx) (r : StepRecord) (w : Windows) : Channel :=
  { ch with
    legs := r.legs,
    pwm := { ch.pwm with override := match r.duty with
      | some d => .staged d
      | none => .none },
    est := { ch.est with
      stepTimer := 0,
      spanValid := match r.mode with
        | .sensed _ _ _ _ _ => ch.est.spanValid
        | .timed _ | .scaled _ | .hosted _ => false },
    seq := { ch.seq with
      currentStep := i, windows := w,
      blankFound := match r.mode with
        | .sensed _ _ _ _ _ => w.blankEnd == 0
        | .timed _ | .scaled _ | .hosted _ => false,
      edgeTaken := false, edgeTimer := 0, edgeSpan := none } }

/-- A channel that has left its run for `st`: no step is current (R82, R90). -/
def Channel.resting (ch : Channel) (st : ChannelState) : Channel :=
  { ch with
    legs := { a := .float, b := .float, c := .float }, pwm := { ch.pwm with override := .none },
    est := { ch.est with divider := none }, seq := { ch.seq with state := st } }

/-- A channel that has counted a tick (R48, R50, R52, R85) and stands at the start of the next one. -/
def Channel.ticked (ch : Channel) : Channel :=
  if ch.isOn then
    { ch with
      est := { ch.est with
        divider := ch.est.divider.map fun _ => 0,
        stepTimer := min 262143 (ch.est.stepTimer + 1), spanCounter := min 65535 (ch.est.spanCounter + 1),
        spanValid := ch.est.spanValid && decide (ch.est.spanCounter + 1 < 65535) },
      seq := { ch.seq with state := match ch.seq.state with
        | .stopping g => .stopping { g with count := if g.deadline = 0 then g.count else g.count + 1 }
        | .idle => .idle
        | .running => .running
        | .fault x => .fault x } }
  else { ch with est := { ch.est with divider := ch.est.divider.map fun _ => 0 } }

/-- A sample brings a sense line's run of differing samples to the run length: an edge is made on the line (R72). -/
def Channel.makesEdge (ch : Channel) (sample : Table 3 Level) (line : LineId) : Prop :=
  sample.read line ≠ ch.sense.accepted.read line ∧ ch.sense.runs.read line + 1 = 2 ^ ch.settings.filter

/-- A change of a line to a level is delivered to a SENSED step past its blank end that has taken no edge and watches the line for it (R28, R74). -/
def Channel.awaits (ch : Channel) (line : LineId) (level : Level) : Prop :=
  ch.isOn = true ∧ ch.seq.blankFound = true ∧ ch.seq.edgeTaken = false ∧
    ∃ r edge blank delay timeout, ch.store.activeBank.read ch.seq.currentStep = some r ∧
      r.mode = .sensed line edge blank delay timeout ∧
      (edge = .either ∨ (edge = .rising ∧ level = .high) ∨ (edge = .falling ∧ level = .low))

/-- A sense front end after a sample of its lines, line by line (R72). -/
structure Sense.After (x now : Sense) (n : Nat) (sample : Table 3 Level) : Prop where
  pins : now.pins = sample
  tripLine : now.tripLine = x.tripLine
  equal : ∀ l, sample.read l = x.accepted.read l → now.accepted.read l = x.accepted.read l ∧ now.runs.read l = 0
  edge : ∀ l, sample.read l ≠ x.accepted.read l → x.runs.read l + 1 = n →
    now.accepted.read l = sample.read l ∧ now.runs.read l = 0
  differs : ∀ l, sample.read l ≠ x.accepted.read l → x.runs.read l + 1 ≠ n →
    now.accepted.read l = x.accepted.read l ∧ now.runs.read l = x.runs.read l + 1

/-- A step store whose two banks have exchanged their roles, the new standby bank being in state `y` (R17, R18). -/
def StepStore.exchanged (x : StepStore) (y : Standby) : StepStore :=
  { x with active := if x.active = 0 then 1 else 0, activeValid := true, standby := y }

/-- The settings `x` are what the fields of a SET_CHANNEL spell, each in its range (R114, R115 check 1). -/
structure Settings.SpelledBy (x : Settings) (prescale shift forcedLimit filter tripLevel reportCq : Byte)
    (minInterval period : BitVec 16) : Prop where
  prescale : x.prescale = prescale.toNat ∧ prescale.toNat ≤ 7
  shift : x.shift = shift.toNat ∧ shift.toNat ≤ 4
  forcedLimit : x.forcedLimit = forcedLimit.toNat ∧ 1 ≤ forcedLimit.toNat ∧ forcedLimit.toNat ≤ 15
  minInterval : x.minInterval = minInterval.toNat
  period : x.period = period.toNat ∧ 16 ≤ period.toNat ∧ period.toNat ≤ 4096
  filter : x.filter = filter.toNat ∧ filter.toNat ≤ 3
  tripLevel : (tripLevel = 0 ∧ x.tripLevel = .high) ∨ (tripLevel = 1 ∧ x.tripLevel = .low)
  reportCq : (reportCq = 0xFF ∧ x.reportCq = none) ∨ ∃ q : QueueId, q ≠ 0 ∧ reportCq.toNat = q.val ∧ x.reportCq = some q

/-- How far a queue id 1 to 7 lies from the last-served id of its class, going upward and round from 7 to 1 (R129). -/
def roundRank (last : Option QueueId) (q : QueueId) : Nat :=
  match last with
  | none => q.val
  | some l => (q.val + 6 - l.val) % 7

/-- The part as a reset leaves it, value by value (R9, R22, R63, R79, R98, R110, R114, R138, R158, R162, R163, R181, R182).
The board's lines and the commands that wait are outside the part; log entries 8, 15 and 18 name the values the spec does not state. -/
def State.afterReset (s : State) (last : LastReset) (pin : Bool) : State :=
  { pending := s.pending, choice := s.choice, resetPin := pin,
    engine := { state := .halted, cause := .none, lastReset := last, adminSqBase := 0, adminCqBase := 0,
                adminSqSize := 0, adminCqSize := 0 },
    sqs := Table.fill 8 { state := .closed, base := 0, size := 0, head := 0, tail := 0, boundCq := none, priority := .level 0 },
    fetch := none, lastServed := Table.fill 4 none, slots := Table.fill 16 .free, nextAge := 0, cancels := [],
    cqs := (Table.fill 8 { state := .closed, base := 0, size := 0, head := 0, tail := 0, pass := true, list := [],
                           reserved := 0, vector := none, threshold := 1, time := 0 }).write 0
      { state := .closed, base := 0, size := 0, head := 0, tail := 0, pass := true, list := [],
        reserved := 0, vector := some 0, threshold := 1, time := 0 },
    vectors := { unsignalled := Table.fill 8 0, timers := Table.fill 8 none, pending := 0, mask := 0, timebase := 0 },
    port := { requests := [], begun := [] },
    windows := Table.fill 4 { base := 0, length := 0, grantsRead := false, grantsWrite := false },
    channels := s.channels.map fun ch =>
      { seq := { state := .idle, currentStep := 0,
                 windows := { blankEnd := 0, delay := 0, timeout := 0, length := 0, hostLimit := 0 },
                 blankFound := false, edgeTaken := false, edgeTimer := 0, edgeSpan := none, loopOwner := none,
                 loopCounter := 0, cycle := 0, held := none, lost := 0 },
        store := { banks := Table.fill 2 (Table.fill 16 none), active := 0, activeValid := false, standby := .empty },
        est := { divider := none, stepTimer := 0, spanCounter := 0, spanValid := false, reference := 1, forcedCount := 0 },
        legs := { a := .float, b := .float, c := .float },
        pwm := { counter := 0, duty := 0, shadow := none, override := .none, periodDuty := 0 },
        sense := { accepted := Table.fill 3 .low, runs := Table.fill 3 0, pins := ch.sense.pins, tripLine := ch.sense.tripLine },
        settings := { prescale := 0, shift := 2, forcedLimit := 3, minInterval := 0, period := 1000, filter := 0,
                      tripLevel := .high, reportCq := none } } }

/-! ### Transactions, ring writes and the end of a halt (R137, R147, R157, R160, R161, R177) -/

/-- A transaction has been handed: it stands at the end of the request list (R160). -/
def State.handed (s : State) (r : Requester) (address : Addr) : State :=
  { s with port := { s.port with
      requests := s.port.requests ++ [{ requester := r, address := address, bytes := [], refused := false, discarded := false }] } }

/-- The requester's transaction has ended: the begun set holds it no more (R161). -/
def State.ended (s : State) (r : Requester) : State :=
  { s with port := { s.port with begun := s.port.begun.eraseP fun t => t.requester == r } }

/-- The write of a CQ's oldest record has been handed, at the ring base + 16 × tail, where the CQ is OPEN, a record waits and no write of it is outstanding;
while HALTING none is handed (R147, R157). -/
def State.writeHanded (s : State) (q : QueueId) : State :=
  if s.engine.state ≠ .halting ∧ (s.cq q).state = .opened ∧ (s.cq q).list ≠ [] ∧ s.port.holds (.cqWrite q) = false then
    s.handed (.cqWrite q) ((s.cq q).base + BitVec.ofNat 64 (16 * (s.cq q).tail))
  else s

/-- The halt has ended: every queue is CLOSED with the values of R137 and R157, no vector is pending, the engine is HALTED (R177).
Log entry 18 names what CQ0 keeps. -/
def State.haltEnded (s : State) : State :=
  { s with
    engine := { s.engine with state := .halted },
    sqs := Table.fill 8 { state := .closed, base := 0, size := 0, head := 0, tail := 0, boundCq := none, priority := .level 0 },
    fetch := none, lastServed := Table.fill 4 none,
    cqs := (Table.fill 8 { state := .closed, base := 0, size := 0, head := 0, tail := 0, pass := true, list := [],
                           reserved := 0, vector := none, threshold := 1, time := 0 }).write 0
      { state := .closed, base := 0, size := 0, head := 0, tail := 0, pass := true, list := [],
        reserved := 0, vector := some 0, threshold := 1, time := 0 },
    vectors := { s.vectors with unsignalled := Table.fill 8 0, timers := Table.fill 8 none, pending := 0 } }

/-- The requester's transaction has ended with its result discarded, and the halt with it where it was the last one begun (R137, R157, R177). -/
def State.endedUnused (s : State) (r : Requester) : State :=
  if s.engine.state = .halting ∧ (s.ended r).port.begun = [] then (s.ended r).haltEnded else s.ended r

/-! ### The port (R160) -/

/-- The begun set holds at most four transactions (R160). -/
def State.PortBounded (s : State) : Prop := s.port.begun.length ≤ 4

/-! ### Room in the completion queues (R143) -/

/-- The SQ id a slot holds (R106). -/
def Slot.sqId : Slot → Option QueueId
  | .free => none
  | .fetching _ q _ => some q
  | .working w => some w.sq

/-- The CQ in which a slot's fetch made its reservation (R106). -/
def Slot.reservedIn : Slot → Option QueueId
  | .free => none
  | .fetching _ _ b => some b
  | .working w => some w.cq

/-- The number of slots that hold a reservation in a CQ. -/
def State.reservations (s : State) (q : QueueId) : Nat :=
  (List.finRange 16).countP fun k => (s.slot k).reservedIn == some q

/-- The accounting of R143 and what it rests on: one reservation for each slot; a held slot's queue is not CLOSED and is bound to the slot's CQ;
a queue that is not CLOSED has a CQ that is not CLOSED; in an OPEN CQ, accepted and reserved records fit;
the fetch record's slot is FETCHING; outside RUNNING nothing is in flight. -/
structure State.RoomHolds (s : State) : Prop where
  reserved : ∀ q, (s.cq q).reserved = s.reservations q
  slotBound : ∀ k i b, (s.slot k).sqId = some i → (s.slot k).reservedIn = some b →
    (s.sq i).state ≠ .closed ∧ (s.sq i).boundCq = some b
  boundOpen : ∀ i, (s.sq i).state ≠ .closed → ∃ b, (s.sq i).boundCq = some b ∧ (s.cq b).state ≠ .closed
  room : ∀ q, (s.cq q).state = .opened → (s.cq q).head < (s.cq q).size ∧ (s.cq q).tail < (s.cq q).size ∧
    (s.cq q).occupied + (s.cq q).reserved ≤ (s.cq q).size - 1
  indices : ∀ q, (s.sq q).state = .opened → (s.sq q).head < (s.sq q).size ∧ (s.sq q).tail < (s.sq q).size
  fetchSlot : ∀ f, s.fetch = some f → ∃ age b, s.slot f.slot = .fetching age f.sq b
  stopped : s.engine.state ≠ .running → s.fetch = none ∧ ∀ k, s.slot k = .free

/-! ### Rings and windows (R167, R168) -/

/-- Every OPEN I/O ring lies within one window that grants its direction. -/
def State.RingsInWindows (s : State) : Prop :=
  ∀ q : QueueId, q ≠ 0 →
    ((s.sq q).state = .opened → inOneWindow s.windows .read (s.sq q).base.toNat (32 * (s.sq q).size) = true) ∧
    ((s.cq q).state = .opened → inOneWindow s.windows .write (s.cq q).base.toNat (16 * (s.cq q).size) = true)

/-! ### Channels -/

/-- The field ranges of a mode (R3, R4). -/
def StepMode.InRange : StepMode → Prop
  | .sensed _ _ blank delay timeout => blank ≤ 255 ∧ delay ≤ 255 ∧ 64 ≤ timeout ∧ timeout ≤ 255
  | .timed duration => 1 ≤ duration ∧ duration ≤ 65535
  | .scaled factor => 1 ≤ factor ∧ factor ≤ 255
  | .hosted limit => limit ≤ 65535

/-- The ranges of a step record (R2 to R4). -/
structure StepRecord.InRange (r : StepRecord) : Prop where
  mode : r.mode.InRange
  branch : ∀ b, r.branch = some b → 1 ≤ b.count ∧ b.count ≤ 255
  duty : ∀ d, r.duty = some d → d ≤ 4096

/-- What a standby bank holds by its state (R8). -/
def StepStore.StandbyHolds (x : StepStore) : Prop :=
  match x.standby with
  | .empty => x.standbyBank.isEmpty = true
  | .ready => x.standbyBank.isEmpty = false
  | .loading l =>
    (∀ r ∈ l.buffer, r.InRange) ∧ l.buffer.length < l.count ∧ l.first + l.count ≤ 16 ∧
      (x.standbyBank.isEmpty = true ↔ l.prior = .empty)
  | .swapPending _ => x.standbyBank.lowestMissing = none

/-- The step store of a channel (R6, R7, R8): checked records only, an active-valid bank complete, the standby bank as its state says. -/
structure StepStore.Holds (x : StepStore) : Prop where
  records : ∀ i j r, Table.read (x.banks.read i) j = some r → r.InRange
  active : x.activeValid = true → x.activeBank.lowestMissing = none
  standby : x.StandbyHolds

/-- A channel and its step store agree (R7, R18, R21): a running channel's current step is reachable in a complete active bank,
and a swap is pending in a running channel only. -/
structure Channel.TablesHold (ch : Channel) : Prop where
  store : ch.store.Holds
  current : ch.isOn = true → ch.store.activeValid = true ∧ StepReachable ch.store.activeBank ch.seq.currentStep
  pending : ∀ k, ch.store.standby = .swapPending k → ch.isOn = true

def State.TablesHold (s : State) : Prop := ∀ c, (s.channel c).TablesHold

/-- The ranges of the settings (R114). -/
structure Settings.InRange (x : Settings) : Prop where
  prescale : x.prescale ≤ 7
  shift : x.shift ≤ 4
  forcedLimit : 1 ≤ x.forcedLimit ∧ x.forcedLimit ≤ 15
  minInterval : x.minInterval ≤ 65535
  period : 16 ≤ x.period ∧ x.period ≤ 4096
  filter : x.filter ≤ 3
  reportCq : x.reportCq ≠ some 0

/-- The forced count by the channel state (R60, R61). -/
def Channel.ForcedHolds (ch : Channel) : Prop :=
  match ch.seq.state with
  | .idle => ch.est.forcedCount = 0
  | .running => ch.est.forcedCount < ch.settings.forcedLimit
  | .stopping g => ch.est.forcedCount < ch.settings.forcedLimit ∧ g.count ≤ g.deadline ∧ g.deadline ≤ 65535
  | .fault c => ch.est.forcedCount ≤ ch.settings.forcedLimit ∧ (ch.est.forcedCount = ch.settings.forcedLimit → c = .lostSense)

/-- The ranges of a channel's measurement, modulation and sense items (R40, R41, R48, R50, R52, R58, R60, R67, R72, R84, R114, R146),
and that outside a run the legs float, no override stands and the divider is stopped (R48, R66, R70). -/
structure Channel.RangesHold (ch : Channel) : Prop where
  settings : ch.settings.InRange
  records : ∀ i j r, Table.read (ch.store.banks.read i) j = some r → r.InRange
  buffer : ∀ l, ch.store.standby = .loading l → ∀ r ∈ l.buffer, r.InRange
  reference : 1 ≤ ch.est.reference ∧ ch.est.reference ≤ 65535
  stepTimer : ch.est.stepTimer ≤ 262143
  span : ch.est.spanCounter ≤ 65535 ∧ (ch.est.spanValid = true → ch.est.spanCounter ≤ 65534)
  forced : ch.ForcedHolds
  cycle : ch.seq.cycle ≤ 4294967295
  lost : ch.seq.lost ≤ 255
  loop : ch.seq.loopCounter ≤ 255 ∧ (ch.seq.loopOwner = none → ch.seq.loopCounter = 0)
  counter : ch.pwm.counter < ch.settings.period
  duty : ch.pwm.duty ≤ 4096 ∧ (∀ d, ch.pwm.shadow = some d → d ≤ 4096)
  override : ∀ d, (ch.pwm.override = .staged d ∨ ch.pwm.override = .inForce d) → d ≤ 4096
  periodDuty : ch.pwm.periodDuty ≤ ch.settings.period
  runs : ∀ l, ch.sense.runs.read l < ch.settings.runLength
  divider : ∀ n, ch.est.divider = some n → n < ch.settings.clocksPerTick
  on : ch.isOn = true → ch.est.divider.isSome = true
  off : ch.isOn = false → ch.legs = Legs.allFloat ∧ ch.pwm.override = .none ∧ ch.est.divider = none

def State.RangesHold (s : State) : Prop := ∀ c, (s.channel c).RangesHold

/-! ### The engine (R110, R136, R157, R162, R171) -/

/-- Whether a channel's standby bank waits for a command in flight. -/
def Standby.waits : Standby → Bool
  | .loading _ | .swapPending _ => true
  | .empty | .ready => false

/-- What the engine's state says of the other blocks (R171 and the rules its table names). -/
structure State.EngineHolds (s : State) : Prop where
  /-- Outside RUNNING no command is in flight (R110, R136, R137). -/
  commands : s.engine.state ≠ .running →
    s.fetch = none ∧ s.cancels = [] ∧ (∀ k, s.slot k = .free) ∧ ∀ c, (s.channel c).store.standby.waits = false
  /-- The cause is NONE in RUNNING and names the admin failure in FATAL (R171). -/
  cause : (s.engine.state = .running → s.engine.cause = .none) ∧
    (s.engine.state = .fatal → s.engine.cause = .adminFetchError ∨ s.engine.cause = .adminWriteError)
  /-- HALTED and HALTING: every channel is IDLE with no held notice, and no coalescing timer runs (R98, R157). -/
  idle : s.engine.state = .halted ∨ s.engine.state = .halting →
    (∀ c, (s.channel c).seq.state = .idle ∧ (s.channel c).seq.held = none) ∧ ∀ q, s.vectors.timers.read q = none
  /-- FATAL: no channel is RUNNING or STOPPING, and only CQ writes wait at the port (R92, R162). -/
  fatal : s.engine.state = .fatal →
    (∀ c, (s.channel c).isOn = false) ∧ ∀ t ∈ s.port.requests, isCqWrite t.requester = true
  /-- FATAL and HALTING: a begun transaction is a CQ write, or its result will be discarded (R110, R136, R137). -/
  discarded : s.engine.state = .fatal ∨ s.engine.state = .halting →
    ∀ t ∈ s.port.begun, isCqWrite t.requester = true ∨ t.discarded = true
  /-- HALTING waits for begun transactions alone (R162, R177). -/
  halting : s.engine.state = .halting → s.port.requests = [] ∧ s.port.begun ≠ []
  /-- HALTED: the port is empty, every queue is CLOSED, no vector is pending (R138, R157, R177). -/
  halted : s.engine.state = .halted →
    s.port.requests = [] ∧ s.port.begun = [] ∧ s.vectors.pending = 0 ∧
      ∀ q, (s.sq q).state = .closed ∧ (s.cq q).state = .closed

end Sys2Proof.Machine
end

