-- ==== Sys2Proof/Certificates/Slice0/Obligations.lean ====
section
/-! DEFINITION. The statements for the provers: what each command does, what a step keeps, and that records and register writes are decoded back. -/

open Sys2Proof Sys2Proof.Machine

/-! ### The step and the queue of waiting commands -/

/-- A step with a command at the front of the queue is that command's meaning on the state with the queue's rest.
The queue is the model's own field (log entry 15). -/
def Obligations.StepTakesFrontCommand : Prop :=
  ∀ (c : Instr) (rest : List Instr) (s : State),
    step { s with pending := c :: rest } = exec c { s with pending := rest }

/-- Every command a sender can spell completes in a next state, whatever the state, and leaves the waiting commands alone.
A term no sender can spell stops (log entry 16). -/
def Obligations.EveryCommandAnswers : Prop :=
  ∀ (c : Instr) (s : State),
    (c.wellFormed = true → ∃ t, exec c s = .next t ∧ t.pending = s.pending) ∧
    (c.wellFormed = false → exec c s = .fault .illFormed)

/-- While the reset pin is asserted only a power-on reset, a pin reset and the release of the pin have an effect (R182, log entry 14). -/
def Obligations.HeldResetKeepsEverything : Prop :=
  ∀ (c : Instr) (s : State), s.resetPin = true → c.wellFormed = true →
    c ≠ .powerOnReset → c ≠ .pinReset → c ≠ .resetPinRelease → exec c s = .next s

/-- With no command waiting one system clock passes (log entry 3), and whatever the order of its events every counter counts once.
Every PWM period counter counts one, or returns to 0 after its last value (R67).
Every sense line is sampled at the level its pin holds (log entry 22): a sample at the accepted level clears the run count, one that differs raises it, and the N-th of a run moves the accepted level (R72).
The tick divider of a channel still running counts one, from 2^p - 1 back to 0; the step timer and the span counter count one at that clock alone (R48), where no trip, no edge and no window or deadline reached ends the step in it.
At every 40th clock (log entry 8) each running coalescing timer counts a microsecond, or expires and signals when that brings it to the coalescing time (R151).
With the reset pin asserted nothing counts. -/
def Obligations.ClockCountsPwmPeriods : Prop :=
  ∀ s : State, s.pending = [] →
    (s.resetPin = true → step s = .next s) ∧
    (s.resetPin = false → ∃ t, step s = .next t ∧
      (∀ (c : ChannelId) (ch now : Channel), s.channel c = ch → t.channel c = now →
        now.pwm.counter = (if ch.pwm.counter + 1 < ch.settings.period then ch.pwm.counter + 1 else 0) ∧
        ch.sense.After now.sense (2 ^ ch.settings.filter) ch.sense.pins ∧
        (∀ n, ch.est.divider = some n → now.isOn = true →
          now.est.divider = some (if n + 1 < 2 ^ ch.settings.prescale then n + 1 else 0)) ∧
        (∀ n, ch.isOn = true → ch.est.divider = some n → ch.sense.tripLine ≠ ch.settings.tripLevel →
          (∀ l, ch.makesEdge ch.sense.pins l → ¬ch.awaits l (ch.sense.pins.read l)) →
          (n + 1 < 2 ^ ch.settings.prescale → now.isOn = true ∧
            now.est.stepTimer = ch.est.stepTimer ∧ now.est.spanCounter = ch.est.spanCounter) ∧
          (2 ^ ch.settings.prescale ≤ n + 1 →
            (∀ l, ch.makesEdge ch.sense.pins l → ch.blankDue = false ∧ ch.ticked.blankDue = false) →
            ch.windowDue = false → ch.deadlineDue = false → ch.ticked.windowDue = false → ch.ticked.deadlineDue = false →
            now.isOn = true ∧ now.est.stepTimer = min 262143 (ch.est.stepTimer + 1) ∧
              now.est.spanCounter = min 65535 (ch.est.spanCounter + 1)))) ∧
      (s.vectors.timebase + 1 < 40 → t.vectors = { s.vectors with timebase := s.vectors.timebase + 1 }) ∧
      (40 ≤ s.vectors.timebase + 1 →
        t.vectors.timebase = 0 ∧ t.vectors.mask = s.vectors.mask ∧
        (∀ q, s.vectors.timers.read q = none →
          t.vectors.timers.read q = none ∧ t.vectors.unsignalled.read q = s.vectors.unsignalled.read q) ∧
        (∀ q m, s.vectors.timers.read q = some m → m + 1 < (s.cq q).time →
          t.vectors.timers.read q = some (m + 1) ∧ t.vectors.unsignalled.read q = s.vectors.unsignalled.read q) ∧
        (∀ q m n, s.vectors.timers.read q = some m → (s.cq q).time ≤ m + 1 → (s.cq q).vector = some n →
          t.vectors.timers.read q = none ∧ t.vectors.unsignalled.read q = 0) ∧
        ∀ n : Fin 4, t.vectors.pending.getLsbD n.val = true ↔
          s.vectors.pending.getLsbD n.val = true ∨
            ∃ q m, s.vectors.timers.read q = some m ∧ (s.cq q).time ≤ m + 1 ∧ (s.cq q).vector = some n))

/-! ### What every step keeps -/

/-- Every step keeps the bound of four begun transactions (R160), and keeps every open I/O ring within a window that grants its direction (R168). -/
def Obligations.StepKeepsPortAndRings : Prop :=
  ∀ s t : State, step s = .next t →
    (s.PortBounded → t.PortBounded) ∧ (s.RingsInWindows → t.RingsInWindows)

/-- Every step keeps the accounting of the completion queues and of the reservations that commands in flight hold (R143).
That no fetch record stands in FATAL and HALTING is the model's choice (log entry 26). -/
def Obligations.StepKeepsRoom : Prop :=
  ∀ s t : State, s.RoomHolds → step s = .next t → t.RoomHolds

/-- Every step keeps the step tables: checked records only, the standby bank as its state says, and a running channel's step reachable in a complete active bank (R6, R7, R8, R21).
What an absent record would do is the model's choice (log entry 24); this invariant rules it out. -/
def Obligations.StepKeepsTables : Prop :=
  ∀ s t : State, s.TablesHold → step s = .next t → t.TablesHold

/-- Every step keeps the ranges of every channel's items, and keeps a resting channel's legs floating, its override away and its divider stopped. -/
def Obligations.StepKeepsRanges : Prop :=
  ∀ s t : State, s.RangesHold → step s = .next t → t.RangesHold

/-- Every step keeps what the engine's state says of the other blocks (R171).
That no fetch record stands in FATAL and HALTING is the model's choice (log entry 26). -/
def Obligations.StepKeepsEngine : Prop :=
  ∀ s t : State, s.EngineHolds → step s = .next t → t.EngineHolds

/-- The state right after reset meets every invariant. -/
def Obligations.ResetMeetsInvariants : Prop :=
  State.reset.PortBounded ∧ State.reset.RingsInWindows ∧ State.reset.RoomHolds ∧ State.reset.TablesHold ∧
    State.reset.RangesHold ∧ State.reset.EngineHolds

/-! ### Resets (R181, R182) -/

/-- Power-on, pin and soft reset leave every item at the value its chapter names, and the release of the pin changes the pin alone.
The values the spec does not state are the model's (log entries 8, 15 and 18), and so is that a power-on reset leaves the pin (log entry 14)
and that every reset keeps the levels on the sense pins and the sampled level of the trip lines (log entry 6). -/
def Obligations.ResetsLeaveNamedValues : Prop :=
  ∀ (s : State) (run : Bool),
    exec .powerOnReset s = .next (s.afterReset .powerOn s.resetPin) ∧
    exec .pinReset s = .next (s.afterReset .powerOn true) ∧
    (s.resetPin = false → exec (.softReset run) s = .next (s.afterReset .soft false)) ∧
    exec .resetPinRelease s = .next { s with resetPin := false }

/-! ### Records and registers (chapter 11) -/

/-- The command record that spells a command row, and the register write that spells a register row, are decoded to that row,
with every operand at every value its field holds (R172, R186, R188). -/
def Obligations.CommandRecordsDecodeBack : Prop :=
  (∀ (i : Instr) (b : Table 32 Byte), i.wellFormed = true → recordOfCommand i = some b → commandOfRecord b = i) ∧
  ∀ (i : Instr) (offset : BitVec 6) (w : BitVec 32),
    i.wellFormed = true → registerWordOf i = some (offset, w) → registerWrite offset w = some i

/-- Two records that agree in code, tag, the bytes R186 names for the code, and CLEAR_REST in a LOAD_STEPS, are the same command:
every other byte and bit is ignored (R99). -/
def Obligations.UnreadBytesAreIgnored : Prop :=
  ∀ a b : Table 32 Byte,
    a.read 0 = b.read 0 → a.read 2 = b.read 2 → a.read 3 = b.read 3 →
    (∀ j : Fin 32, readsByte (a.read 0) j.val = true → a.read j = b.read j) →
    (a.read 0 = 0x10 → (a.read 1).getLsbD 0 = (b.read 1).getLsbD 0) →
    commandOfRecord a = commandOfRecord b

/-- A step record fails its validity check exactly when one of the nine failures of R6 holds of its bytes (R185),
and a record that fails at its arrival is reported by its bank index, the load's first index plus its position in the load.
Everything is read on the settled state, the model's reading of R128 and R160 (log entry 1). -/
def Obligations.StepRecordFailsExactly : Prop :=
  (∀ b : Table 16 Byte, stepRecordOf b = none ↔
    4 ≤ bitsOf (b.read 0) 0 3 ∨
    (6 ≤ bitsOf (b.read 1) 0 3 ∨ 6 ≤ bitsOf (b.read 2) 0 3 ∨ 6 ≤ bitsOf (b.read 3) 0 3) ∨
    ((b.read 0).getLsbD 7 = true ∧ 4096 < half16 (b.read 8) (b.read 9)) ∨
    ((b.read 0).getLsbD 6 = true ∧ b.read 6 = 0) ∨
    (bitsOf (b.read 0) 0 3 = 0 ∧ bitsOf (b.read 12) 0 2 = 3) ∨
    (bitsOf (b.read 0) 0 3 = 0 ∧ bitsOf (b.read 12) 2 2 = 3) ∨
    (bitsOf (b.read 0) 0 3 = 0 ∧ (b.read 15).toNat < 64) ∨
    (bitsOf (b.read 0) 0 3 = 1 ∧ half16 (b.read 12) (b.read 13) = 0) ∨
    (bitsOf (b.read 0) 0 3 = 2 ∧ b.read 12 = 0)) ∧
  ∀ (s : State) (c : ChannelId) (b : Table 16 Byte) (l : Load),
    s.resetPin = false → (s.settle.channel c).store.standby = .loading l → s.settle.port.answers (.load c) = true →
    stepRecordOf b = none →
    exec (.loadRecordArrival c b) s = .next
      (((s.settle.ended (.load c)).withChannel c ((s.settle.channel c).withStandby l.prior.toStandby)).complete
        l.slot .invalidStep (l.first + l.buffer.length))

/-- A valid step record holds the fields its bytes hold, each at its place and width (R1 to R4, R185). -/
def Obligations.StepRecordHoldsItsFields : Prop :=
  ∀ (b : Table 16 Byte) (r : StepRecord), stepRecordOf b = some r →
    (bitsOf (b.read 0) 0 3 = 0 → ∃ (line : LineId) (edge : EdgeKind),
      r.mode = .sensed line edge (b.read 13).toNat (b.read 14).toNat (b.read 15).toNat ∧
      line.val = bitsOf (b.read 12) 0 2 ∧ edge.toCode = bitsOf (b.read 12) 2 2) ∧
    (bitsOf (b.read 0) 0 3 = 1 → r.mode = .timed (half16 (b.read 12) (b.read 13))) ∧
    (bitsOf (b.read 0) 0 3 = 2 → r.mode = .scaled (b.read 12).toNat) ∧
    (bitsOf (b.read 0) 0 3 = 3 → r.mode = .hosted (half16 (b.read 12) (b.read 13))) ∧
    r.legs.a.toCode = bitsOf (b.read 1) 0 3 ∧ r.legs.b.toCode = bitsOf (b.read 2) 0 3 ∧
    r.legs.c.toCode = bitsOf (b.read 3) 0 3 ∧ r.next.val = bitsOf (b.read 4) 0 4 ∧
    r.report = (b.read 0).getLsbD 3 ∧ r.seed = (b.read 0).getLsbD 4 ∧ r.mark = (b.read 0).getLsbD 5 ∧
    ((b.read 0).getLsbD 6 = false → r.branch = none) ∧
    ((b.read 0).getLsbD 6 = true →
      ∃ x, r.branch = some x ∧ x.target.val = bitsOf (b.read 5) 0 4 ∧ x.count = (b.read 6).toNat) ∧
    r.duty = if (b.read 0).getLsbD 7 then some (half16 (b.read 8) (b.read 9)) else none

/-- The bytes of the four kinds of completion record, with the pass marker in bit 7 of byte 0, and those of a snapshot (R187),
with the codes of the seventeen statuses (R187) and of the enumerated fields that records and snapshots hold (R184). -/
def Obligations.WrittenBytes : Prop :=
  (∀ (p : Bool) (tag : BitVec 16) (sq : QueueId) (head : Nat) (status : Status) (detail : Nat),
    (CqRecord.commandDone tag sq head status detail).toBytes p =
      [if p then 0x80 else 0x00, BitVec.ofNat 8 status.toCode, tag.extractLsb' 0 8, tag.extractLsb' 8 8,
       BitVec.ofNat 8 sq.val, 0, BitVec.ofNat 8 head, BitVec.ofNat 8 (head / 256), BitVec.ofNat 8 detail,
       BitVec.ofNat 8 (detail / 256), BitVec.ofNat 8 (detail / 65536), BitVec.ofNat 8 (detail / 16777216), 0, 0, 0, 0]) ∧
  (∀ (p : Bool) (r : Report) (lost : Nat),
    (CqRecord.stepReport r lost).toBytes p =
      [if p then 0x81 else 0x01, BitVec.ofNat 8 r.channel.val, BitVec.ofNat 8 r.stepLeft.val,
       (match r.stepEntered with
        | some i => BitVec.ofNat 8 i.val
        | none => 0xFF),
       BitVec.ofNat 8 r.bank.val, BitVec.ofNat 8 r.cause.toCode, BitVec.ofNat 8 lost, if r.span.isSome then 1 else 0,
       BitVec.ofNat 8 r.reference, BitVec.ofNat 8 (r.reference / 256), BitVec.ofNat 8 r.cycle,
       BitVec.ofNat 8 (r.cycle / 256), BitVec.ofNat 8 (r.span.getD 0), BitVec.ofNat 8 (r.span.getD 0 / 256), 0, 0]) ∧
  (∀ (p : Bool) (c : ChannelId) (cause : FaultCause),
    (CqRecord.channelNotice c cause).toBytes p =
      [if p then 0x82 else 0x02, BitVec.ofNat 8 c.val, 3, BitVec.ofNat 8 cause.toCode, 0, 0, 0, 0, 0, 0, 0, 0, 0, 0, 0, 0]) ∧
  (∀ (p : Bool) (q : QueueId) (kind : QueueKind) (cause : NoticeCause),
    (CqRecord.queueNotice q kind cause).toBytes p =
      [if p then 0x83 else 0x03, BitVec.ofNat 8 q.val, BitVec.ofNat 8 kind.toCode, BitVec.ofNat 8 cause.toCode,
       0, 0, 0, 0, 0, 0, 0, 0, 0, 0, 0, 0]) ∧
  ([Status.success, .invalidOpcode, .invalidField, .invalidQueue, .invalidChannel, .adminOnly, .stateConflict, .invalidStep,
    .accessDenied, .busError, .aborted, .overtaken, .channelFault, .deadline, .tripActive, .notFound, .notCancelable].map
      Status.toCode = [0, 1, 2, 3, 4, 5, 6, 7, 8, 9, 10, 11, 12, 13, 14, 15, 16] ∧
    [none, some FaultCause.trip, some .lostSense, some .overspeed, some .hostTimeout, some .engine].map causeCode = [0, 1, 2, 3, 4, 5] ∧
    [FaultCause.trip, .lostSense, .overspeed, .hostTimeout, .engine].map FaultCause.toCode = [1, 2, 3, 4, 5] ∧
    [AdvanceCause.sensed, .forced, .timed, .scaled, .hosted].map AdvanceCause.toCode = [0, 1, 2, 3, 4] ∧
    [QueueKind.sq, .cq].map QueueKind.toCode = [0, 1] ∧
    [NoticeCause.sqFetchError, .badPost, .cqWriteError, .badRelease].map NoticeCause.toCode = [0, 1, 2, 3] ∧
    [LegState.float, .upperOn, .lowerOn, .upperPwm, .lowerPwm, .pairPwm].map LegState.toCode = [0, 1, 2, 3, 4, 5] ∧
    [EdgeKind.rising, .falling, .either].map EdgeKind.toCode = [0, 1, 2] ∧
    ∀ (g : Graceful) (x : FaultCause) (l : Load) (k : SlotId),
      [ChannelState.idle, .running, .stopping g, .fault x].map ChannelState.toCode = [0, 1, 2, 3] ∧
      [Standby.empty, .loading l, .ready, .swapPending k].map Standby.toCode = [0, 1, 2, 3]) ∧
  ∀ ch : Channel, ch.snapshot.length = 32 ∧
    ch.snapshot.take 2 = [BitVec.ofNat 8 ch.seq.state.toCode, BitVec.ofNat 8 (causeCode ch.seq.state.cause)] ∧
    ((ch.snapshot.getD 2 0).getLsbD 0 = decide (ch.store.active = 1) ∧ (ch.snapshot.getD 2 0).getLsbD 1 = ch.store.activeValid ∧
      (ch.snapshot.getD 2 0).getLsbD 2 = ch.est.spanValid ∧ (ch.snapshot.getD 2 0).getLsbD 3 = ch.seq.held.isSome ∧
      (ch.snapshot.getD 2 0).getLsbD 4 = decide (ch.sense.tripLine = .high) ∧
      (ch.snapshot.getD 2 0).getLsbD 5 = decide (ch.sense.accepted.read 0 = .high) ∧
      (ch.snapshot.getD 2 0).getLsbD 6 = decide (ch.sense.accepted.read 1 = .high) ∧
      (ch.snapshot.getD 2 0).getLsbD 7 = decide (ch.sense.accepted.read 2 = .high)) ∧
    (ch.snapshot.drop 3).take 5 =
      [BitVec.ofNat 8 ch.store.standby.toCode, BitVec.ofNat 8 ch.seq.currentStep.val,
       (match ch.seq.loopOwner with
        | some i => BitVec.ofNat 8 i.val
        | none => 0xFF),
       BitVec.ofNat 8 ch.seq.loopCounter, BitVec.ofNat 8 ch.est.forcedCount] ∧
    (ch.snapshot.drop 8).take 4 =
      [BitVec.ofNat 8 ch.est.stepTimer, BitVec.ofNat 8 (ch.est.stepTimer / 256),
       BitVec.ofNat 8 (ch.est.stepTimer / 65536), BitVec.ofNat 8 (ch.est.stepTimer / 16777216)] ∧
    (ch.snapshot.drop 12).take 4 =
      [BitVec.ofNat 8 ch.est.reference, BitVec.ofNat 8 (ch.est.reference / 256),
       BitVec.ofNat 8 ch.est.spanCounter, BitVec.ofNat 8 (ch.est.spanCounter / 256)] ∧
    (ch.snapshot.drop 16).take 4 =
      [BitVec.ofNat 8 ch.seq.cycle, BitVec.ofNat 8 (ch.seq.cycle / 256), BitVec.ofNat 8 (ch.seq.cycle / 65536),
       BitVec.ofNat 8 (ch.seq.cycle / 16777216)] ∧
    ch.snapshot.drop 20 =
      [BitVec.ofNat 8 ch.pwm.duty, BitVec.ofNat 8 (ch.pwm.duty / 256), BitVec.ofNat 8 ch.seq.lost,
       0, 0, 0, 0, 0, 0, 0, 0, 0]

/-! ### Fetched records and completions (chapters 6, 7 and 8) -/

/-- The return of a fetch read moves the head one past the ring index, makes the slot WORKING with the record's code, tag and channel, and leaves no read outstanding (R131).
The row of an admin or unknown command has no channel field, and its slot holds channel 0 whatever the record's channel byte, the model's reading (log entry 19).
A record that fails a check of R100 completes in that event with the first failing check's status, whatever its command.
With no fetch read to return, the row of a record ends the begun fetch read of a discarded command, its data discarded with no head moved and no slot filled, and with it the halt that waits for it (R136, R137, R177); that the row of the record does so is the model's reading (log entry 13).
With none begun either it is no event (log entry 2). What CQ0 holds after the halt is the model's reading (log entry 18).
Everything is read on the settled state, the model's reading of R128 and R160 (log entry 1). -/
def Obligations.RecordIsTakenAndChecked : Prop :=
  (∀ (i : Instr) (code : CommandCode) (tag : BitVec 16) (channel : Byte) (s u : State) (f : FetchRecord)
    (age : Nat) (b : QueueId),
    headerOf i = some (code, tag, channel) → i.wellFormed = true → s.resetPin = false →
    s.settle.returning = some f → s.settle.slot f.slot = .fetching age f.sq b →
    u = { s.settle with
          sqs := s.settle.sqs.write f.sq
            { s.settle.sqs.read f.sq with head := (f.index + 1) % (s.settle.sqs.read f.sq).size },
          slots := s.settle.slots.write f.slot (.working
            { age := age, sq := f.sq, cq := b, code := code, tag := tag, channel := channel, owner := code.owner }),
          port := { s.settle.port with begun := s.settle.port.begun.eraseP fun t => t.requester == .fetch f.sq },
          fetch := none } →
    s.settle.takeRecord f code tag channel = u ∧
    (code.isUnknown = true → exec i s = .next (u.complete f.slot .invalidOpcode 0)) ∧
    (code.isUnknown = false → code.isAdminOnly = true → f.sq ≠ 0 → exec i s = .next (u.complete f.slot .adminOnly 0)) ∧
    (code.isUnknown = false → (code.isAdminOnly = true → f.sq = 0) → code.readsChannel = true → 3 < channel.toNat →
      exec i s = .next (u.complete f.slot .invalidChannel 0))) ∧
  ∀ (i : Instr) (code : CommandCode) (tag : BitVec 16) (channel : Byte) (s : State),
    headerOf i = some (code, tag, channel) → i.wellFormed = true → s.resetPin = false → s.settle.returning = none →
    (∀ q, s.settle.port.hasDiscarded (.fetch q) = true → (∀ p, p ≠ q → s.settle.port.hasDiscarded (.fetch p) = false) →
      exec i s = .next (s.settle.endedUnused (.fetch q))) ∧
    ((∀ q, s.settle.port.hasDiscarded (.fetch q) = false) → exec i s = .next s.settle)

/-- A completion handed for a WORKING slot is appended to its CQ's list with the SQ head of the event when the CQ is OPEN, and discarded otherwise;
the reserved count falls by one and the slot becomes FREE in either case, and nothing else changes but the write the CQ hands (R107, R144, R147).
The slot's queue is not CLOSING here. -/
def Obligations.CompletionIsTaken : Prop :=
  ∀ (s : State) (k : SlotId) (w : Working) (status : Status) (detail : Nat),
    s.slot k = .working w → (∀ x, (s.sq w.sq).state ≠ .closing x) →
    ((s.cq w.cq).state = .opened → ∃ p : Port,
      s.complete k status detail =
        { (s.withSlot k .free).withCq w.cq
            { s.cq w.cq with
              reserved := (s.cq w.cq).reserved - 1,
              list := (s.cq w.cq).list ++ [.commandDone w.tag w.sq (s.sq w.sq).head status detail] } with port := p } ∧
      p.begun = s.port.begun ∧
      ((s.engine.state ≠ .halting ∧ s.port.holds (.cqWrite w.cq) = false) →
        p.requests = s.port.requests ++
          [{ requester := .cqWrite w.cq,
             address := (s.cq w.cq).base + BitVec.ofNat 64 (16 * (s.cq w.cq).tail),
             bytes := [], refused := false, discarded := false }]) ∧
      ((s.engine.state = .halting ∨ s.port.holds (.cqWrite w.cq) = true) → p = s.port)) ∧
    ((s.cq w.cq).state ≠ .opened →
      s.complete k status detail =
        (s.withSlot k .free).withCq w.cq { s.cq w.cq with reserved := (s.cq w.cq).reserved - 1 })

/-- A CLOSING queue becomes CLOSED, its head and tail kept, in the event that frees the last slot holding its id, and not before;
its CLOSE_SQ then completes SUCCESS, after the completion that freed the slot, or after that completion was discarded because its CQ is BROKEN (R124). -/
def Obligations.LastCompletionClosesQueue : Prop :=
  ∀ (s : State) (k j : SlotId) (w v : Working) (status : Status) (detail : Nat),
    s.slot k = .working w → s.slot j = .working v → v.sq ≠ w.sq → (s.sq w.sq).state = .closing (some j) →
    ((∃ i, i ≠ k ∧ (s.slot i).sqId = some w.sq) →
      (s.complete k status detail).sq w.sq = s.sq w.sq ∧ (s.complete k status detail).slot j = .working v) ∧
    ((∀ i, i ≠ k → (s.slot i).sqId ≠ some w.sq) →
      (s.complete k status detail).sq w.sq = { s.sq w.sq with state := .closed } ∧
      (s.complete k status detail).slot k = .free ∧ (s.complete k status detail).slot j = .free ∧
      (∀ i, i ≠ k → i ≠ j → (s.complete k status detail).slot i = s.slot i) ∧
      ((s.cq w.cq).state = .opened → (s.cq v.cq).state = .opened → v.cq ≠ w.cq →
        ((s.complete k status detail).cq w.cq).list =
          (s.cq w.cq).list ++ [.commandDone w.tag w.sq (s.sq w.sq).head status detail] ∧
        ((s.complete k status detail).cq v.cq).list =
          (s.cq v.cq).list ++ [.commandDone v.tag v.sq (s.sq v.sq).head .success 0]) ∧
      ((s.cq w.cq).state ≠ .opened → (s.cq v.cq).state = .opened →
        ((s.complete k status detail).cq w.cq).list = (s.cq w.cq).list ∧
        ((s.complete k status detail).cq v.cq).list =
          (s.cq v.cq).list ++ [.commandDone v.tag v.sq (s.sq v.sq).head .success 0]) ∧
      ((s.cq w.cq).state = .opened → v.cq = w.cq →
        ((s.complete k status detail).cq w.cq).list =
          (s.cq w.cq).list ++ [.commandDone w.tag w.sq (s.sq w.sq).head status detail,
            .commandDone v.tag v.sq (s.sq v.sq).head .success 0]))

/-- An offered report, channel notice or queue notice is accepted when the CQ is OPEN with a free count above its reserved count and the engine is not HALTING,
and else is dropped and counted, held, or discarded (R44, R93, R94, R95, R145, R146). An accepted record joins the end of its CQ's list, and the write of the CQ's oldest record is handed where none is outstanding (R147).
The room a release frees is offered to a channel's held notice when that notice waits for the released CQ: accepted, it joins the list and the channel holds nothing; refused, it stays held (R96, R150).
That a notice which would replace a held one is discarded with a CLOSED report CQ or while HALTING is the model's reading (log entry 20). -/
def Obligations.OffersAreTaken : Prop :=
  ∀ (s : State) (c : ChannelId) (r : Report) (cause : FaultCause) (q : QueueId) (kind : QueueKind) (why : NoticeCause),
    (∀ x : QueueId, s.accepts x = true ↔
      s.engine.state ≠ .halting ∧ (s.cq x).state = .opened ∧
        (s.cq x).reserved < (s.cq x).size - 1 - (((s.cq x).tail + (s.cq x).size - (s.cq x).head) % (s.cq x).size + (s.cq x).list.length)) ∧
    ((s.channel c).settings.reportCq = none → s.offerReport c r = s) ∧
    (∀ x, (s.channel c).settings.reportCq = some x → s.accepts x = true → (s.channel c).seq.held = none →
      s.offerReport c r =
        (s.withChannel c ((s.channel c).withLost 0)).appendRecord x (.stepReport r (s.channel c).seq.lost)) ∧
    (∀ x, (s.channel c).settings.reportCq = some x → (s.accepts x = false ∨ (s.channel c).seq.held ≠ none) →
      (s.engine.state = .halting → s.offerReport c r = s) ∧
      (s.engine.state ≠ .halting →
        s.offerReport c r = s.withChannel c ((s.channel c).withLost (min 255 ((s.channel c).seq.lost + 1))))) ∧
    ((s.channel c).seq.held = none → (s.channel c).settings.reportCq = none → s.offerChannelNotice c cause = s) ∧
    (∀ x, (s.channel c).seq.held = none → (s.channel c).settings.reportCq = some x →
      (s.accepts x = true → s.offerChannelNotice c cause = s.appendRecord x (.channelNotice c cause)) ∧
      (s.accepts x = false → (s.cq x).state = .opened → s.engine.state ≠ .halting →
        s.offerChannelNotice c cause = s.withChannel c ((s.channel c).withHeld (some { cause := cause, cq := x }))) ∧
      ((s.cq x).state ≠ .opened ∨ s.engine.state = .halting → s.offerChannelNotice c cause = s)) ∧
    (∀ h, (s.channel c).seq.held = some h →
      (∀ x, (s.channel c).settings.reportCq = some x → (s.cq x).state = .opened → s.engine.state ≠ .halting →
        s.offerChannelNotice c cause = s.withChannel c ((s.channel c).withHeld (some { cause := cause, cq := x }))) ∧
      (((s.channel c).settings.reportCq = none ∨ s.engine.state = .halting ∨
          ∃ x, (s.channel c).settings.reportCq = some x ∧ (s.cq x).state ≠ .opened) →
        s.offerChannelNotice c cause = s.withChannel c ((s.channel c).withHeld none))) ∧
    (s.accepts 0 = true → s.offerQueueNotice q kind why = s.appendRecord 0 (.queueNotice q kind why)) ∧
    (s.accepts 0 = false → s.offerQueueNotice q kind why = s) ∧
    (∀ (x : QueueId) (record : CqRecord),
      s.appendRecord x record = (s.withCq x { s.cq x with list := (s.cq x).list ++ [record] }).writeHanded x) ∧
    ((s.channel c).seq.held = none → s.offerHeld q c = s) ∧
    (∀ h, (s.channel c).seq.held = some h →
      (h.cq ≠ q ∨ s.accepts q = false → s.offerHeld q c = s) ∧
      (h.cq = q → s.accepts q = true →
        s.offerHeld q c = (s.withChannel c ((s.channel c).withHeld none)).appendRecord q (.channelNotice c h.cause)))

/-! ### Loads and swaps (chapter 1) -/

/-- LOAD_STEPS is checked in the order of R11, each refusal with its status, and an accepted load puts the standby bank in LOADING with an empty load buffer.
Its first read is handed to the port unless a read of a cancelled load is still outstanding (R11, R15).
Everything is read on the settled state, the model's reading of R128 and R160 (log entry 1). -/
def Obligations.LoadStepsIsChecked : Prop :=
  ∀ (s u : State) (k : SlotId) (c : ChannelId) (tag : BitVec 16) (channel first count : Byte) (clearRest : Bool) (source : Addr),
    s.Dispatches .loadSteps tag channel k u → channelOf channel = some c →
    exec (.loadSteps tag channel first count clearRest source) s = .next
      (if ¬(1 ≤ count.toNat ∧ count.toNat ≤ 16 ∧ first.toNat ≤ 15 ∧ first.toNat + count.toNat ≤ 16 ∧ source.toNat % 16 = 0) then
        u.complete k .invalidField 0
      else if (u.channel c).store.standby ≠ .empty ∧ (u.channel c).store.standby ≠ .ready then u.complete k .stateConflict 0
      else if inOneWindow u.windows .read source.toNat (16 * count.toNat) = false then u.complete k .accessDenied 0
      else
        let t := u.withChannel c ((u.channel c).withStandby (.loading
          { slot := k, first := first.toNat, count := count.toNat, clearRest := clearRest, source := source,
            prior := if (u.channel c).store.standby = .empty then .empty else .ready, buffer := [] }))
        if u.port.holds (.load c) then t else t.handed (.load c) source)

/-- A record that a load read returns is checked and buffered, and the next read is handed; the last record writes the standby bank in one event;
an invalid record and a bus error end the load with the bank in its prior state (R12, R13, R14).
The data or the bus error of a read whose load was cancelled or discarded changes no bank and completes nothing; a later load that waits for that read then issues its own, and a halt that waits for it ends (R10, R15, R177). That these rows end such a read is the model's reading (log entry 13).
A row with no read to answer is no event (log entry 2). What CQ0 holds after the halt is the model's reading (log entry 18).
Everything is read on the settled state, the model's reading of R128 and R160 (log entry 1). -/
def Obligations.LoadReadsEnd : Prop :=
  (∀ (s : State) (c : ChannelId) (bytes : Table 16 Byte) (l : Load),
    s.resetPin = false → (s.settle.channel c).store.standby = .loading l →
    (s.settle.port.answers (.load c) = true →
      (stepRecordOf bytes = none → exec (.loadRecordArrival c bytes) s = .next
        (((s.settle.ended (.load c)).withChannel c ((s.settle.channel c).withStandby l.prior.toStandby)).complete
          l.slot .invalidStep (l.first + l.buffer.length))) ∧
      (∀ r, stepRecordOf bytes = some r → l.buffer.length + 1 ≠ l.count →
        exec (.loadRecordArrival c bytes) s = .next
          (let t := (s.settle.ended (.load c)).withChannel c
            ((s.settle.channel c).withStandby (.loading { l with buffer := l.buffer ++ [r] }))
           if t.port.holds (.load c) then t
           else t.handed (.load c) (l.source + BitVec.ofNat 64 (16 * (l.buffer.length + 1))))) ∧
      (∀ r, stepRecordOf bytes = some r → l.buffer.length + 1 = l.count → ∃ bank : Bank,
        (∀ i : StepIx, bank.read i =
          if l.first ≤ i.val ∧ i.val < l.first + l.count then (l.buffer ++ [r])[i.val - l.first]?
          else if l.clearRest then none
          else (s.settle.channel c).store.standbyBank.read i) ∧
        exec (.loadRecordArrival c bytes) s = .next
          (((s.settle.ended (.load c)).withChannel c
            { s.settle.channel c with
              store := { (s.settle.channel c).store with
                banks := (s.settle.channel c).store.banks.write
                  (if (s.settle.channel c).store.active = 0 then 1 else 0) bank,
                standby := .ready } }).complete l.slot .success 0))) ∧
    (s.settle.port.fails (.load c) = true → exec (.loadReadBusError c) s = .next
      (((s.settle.ended (.load c)).withChannel c ((s.settle.channel c).withStandby l.prior.toStandby)).complete
        l.slot .busError 0))) ∧
  ∀ (s : State) (c : ChannelId) (bytes : Table 16 Byte), s.resetPin = false →
    (s.settle.port.hasDiscarded (.load c) = true → ∀ t : State,
      ((∀ l, (s.settle.channel c).store.standby ≠ .loading l) → t = s.settle.endedUnused (.load c)) →
      (∀ l, (s.settle.channel c).store.standby = .loading l → s.engine.state ≠ .halting ∧
        t = if (s.settle.ended (.load c)).port.holds (.load c) then s.settle.ended (.load c)
          else (s.settle.ended (.load c)).handed (.load c) (l.source + BitVec.ofNat 64 (16 * l.buffer.length))) →
      exec (.loadRecordArrival c bytes) s = .next t ∧ exec (.loadReadBusError c) s = .next t) ∧
    (s.settle.port.hasDiscarded (.load c) = false →
      (s.settle.port.answers (.load c) = false → exec (.loadRecordArrival c bytes) s = .next s.settle) ∧
      (s.settle.port.fails (.load c) = false → exec (.loadReadBusError c) s = .next s.settle))

/-- The reachability check finds a bank complete exactly when every index reachable from step 0 by next and branch target holds a record,
and else finds the lowest reachable index that holds none (R16). -/
def Obligations.ReachabilityIsChecked : Prop :=
  ∀ b : Bank,
    (b.lowestMissing = none ↔ ∀ i, StepReachable b i → ∃ r, b.read i = some r) ∧
    ∀ i, b.lowestMissing = some i ↔
      StepReachable b i ∧ b.read i = none ∧ ∀ j, j < i → StepReachable b j → ∃ r, b.read j = some r

/-- COMMIT_STEPS refuses a bank that is not READY or not complete, takes the swap at once in IDLE or FAULT with the loop cleared,
and makes it pending in RUNNING or STOPPING (R16, R17, R18, R42).
Everything is read on the settled state, the model's reading of R128 and R160 (log entry 1). -/
def Obligations.CommitStepsIsChecked : Prop :=
  ∀ (s u : State) (k : SlotId) (c : ChannelId) (tag : BitVec 16) (channel : Byte),
    s.Dispatches .commitSteps tag channel k u → channelOf channel = some c →
    exec (.commitSteps tag channel) s = .next
      (if (u.channel c).store.standby ≠ .ready then u.complete k .stateConflict 0
      else match Bank.lowestMissing (u.channel c).store.standbyBank with
        | some i => u.complete k .invalidStep i.val
        | none =>
          match (u.channel c).seq.state with
          | .running | .stopping _ => u.withChannel c ((u.channel c).withStandby (.swapPending k))
          | .idle | .fault _ =>
            (u.withChannel c { u.channel c with
              store := (u.channel c).store.exchanged
                (if (List.finRange 16).all fun i => (Table.read (u.channel c).store.activeBank i).isNone then .empty else .ready),
              seq := { (u.channel c).seq with loopOwner := none, loopCounter := 0 } }).complete k .success 0)

/-! ### Steps (chapter 2) -/

/-- START is checked in the order of R24, and one that passes sets the reference, clears cycle, forced count and loop, marks the span invalid,
restarts the divider and the span counter, goes RUNNING and enters step 0 (R25, R48, R52).
The trip line is read at the level of its last sample, the model's reading of R24 and R77 (log entry 7).
Everything is read on the settled state, the model's reading of R128 and R160 (log entry 1). -/
def Obligations.StartIsChecked : Prop :=
  ∀ (s u : State) (k : SlotId) (c : ChannelId) (tag : BitVec 16) (channel : Byte) (reference : BitVec 16),
    s.Dispatches .start tag channel k u → channelOf channel = some c →
    (reference = 0 → exec (.start tag channel reference) s = .next (u.complete k .invalidField 0)) ∧
    (reference ≠ 0 → ((u.channel c).seq.state ≠ .idle ∨ (u.channel c).store.activeValid = false) →
      exec (.start tag channel reference) s = .next (u.complete k .stateConflict 0)) ∧
    (reference ≠ 0 → (u.channel c).seq.state = .idle → (u.channel c).store.activeValid = true →
      (u.channel c).sense.tripLine = (u.channel c).settings.tripLevel →
      exec (.start tag channel reference) s = .next (u.complete k .tripActive 0)) ∧
    (∀ r, reference ≠ 0 → (u.channel c).seq.state = .idle → (u.channel c).store.activeValid = true →
      (u.channel c).sense.tripLine ≠ (u.channel c).settings.tripLevel →
      (u.channel c).store.activeBank.read 0 = some r →
      exec (.start tag channel reference) s = .next
        ((u.withChannel c (Channel.entering
          { u.channel c with
            est := { (u.channel c).est with
              reference := reference.toNat, forcedCount := 0, spanValid := false, spanCounter := 0, divider := some 0 },
            seq := { (u.channel c).seq with state := .running, cycle := 0, loopOwner := none, loopCounter := 0 } }
          0 r (windowsOf reference.toNat r.mode))).complete k .success 0))

/-- Entering a step applies its legs, restarts the step timer, stages its override and computes its windows from the reference (R26),
by the formulas of R27; a SENSED step's blank always ends before its timeout, and a SCALED length stays at or below 261116 ticks. -/
def Obligations.StepEntryComputesWindows : Prop :=
  (∀ (ch : Channel) (i : StepIx) (r : StepRecord), ch.store.activeBank.read i = some r →
    ch.enter i = ch.entering i r (windowsOf ch.est.reference r.mode)) ∧
  (∀ (ref : Nat) (line : LineId) (edge : EdgeKind) (blank delay timeout : Nat),
    windowsOf ref (.sensed line edge blank delay timeout) =
      { blankEnd := ref * blank / 256, delay := ref * delay / 256,
        timeout := if 65535 < ref * timeout / 64 then 65535 else ref * timeout / 64, length := 0, hostLimit := 0 } ∧
    (1 ≤ ref → ref ≤ 65535 → blank ≤ 255 → 64 ≤ timeout →
      (windowsOf ref (.sensed line edge blank delay timeout)).blankEnd <
        (windowsOf ref (.sensed line edge blank delay timeout)).timeout)) ∧
  (∀ ref duration : Nat, windowsOf ref (.timed duration) =
    { blankEnd := 0, delay := 0, timeout := 0, length := duration, hostLimit := 0 }) ∧
  (∀ ref factor : Nat, windowsOf ref (.scaled factor) =
    { blankEnd := 0, delay := 0, timeout := 0, length := if ref * factor / 64 = 0 then 1 else ref * factor / 64, hostLimit := 0 } ∧
    (ref ≤ 65535 → factor ≤ 255 → (windowsOf ref (.scaled factor)).length ≤ 261116)) ∧
  (∀ ref limit : Nat, windowsOf ref (.hosted limit) =
    { blankEnd := 0, delay := 0, timeout := 0, length := 0, hostLimit := limit })

/-- An advance with nothing taken at a mark seeds the reference, counts a mark, chooses the next step by the branch rule or by next,
enters it and offers the report of the step left; nothing else changes (R34, R38, R40, R41, R43). -/
def Obligations.AdvanceFollowsTheTable : Prop :=
  ∀ (s : State) (c : ChannelId) (cause : AdvanceCause) (ch : Channel) (r : StepRecord) (ref cycle : Nat),
    s.channel c = ch → ch.isOn = true → ch.store.activeBank.read ch.seq.currentStep = some r →
    (r.mark = true → ch.seq.state = .running ∧ ∀ j, ch.store.standby ≠ .swapPending j) →
    ref = (match r.mode with
      | .timed _ | .scaled _ => if r.seed then max 1 (min 65535 ch.seq.windows.length) else ch.est.reference
      | .sensed _ _ _ _ _ | .hosted _ => ch.est.reference) →
    cycle = (if r.mark then (ch.seq.cycle + 1) % 4294967296 else ch.seq.cycle) →
    ∀ (owner : Option StepIx) (counter : Nat) (i : StepIx) (e : StepRecord),
      (r.branch = none → owner = ch.seq.loopOwner ∧ counter = ch.seq.loopCounter ∧ i = r.next) →
      (∀ b n, r.branch = some b → n = (if ch.seq.loopOwner = some ch.seq.currentStep then ch.seq.loopCounter else b.count) →
        (0 < n → owner = some ch.seq.currentStep ∧ counter = n - 1 ∧ i = b.target) ∧
        (n = 0 → owner = none ∧ counter = 0 ∧ i = r.next)) →
      ch.store.activeBank.read i = some e →
      s.advanceStep c cause =
        (let t := s.withChannel c (Channel.entering
          { ch with
            est := { ch.est with reference := ref },
            seq := { ch.seq with cycle := cycle, loopOwner := owner, loopCounter := counter } } i e (windowsOf ref e.mode))
         if r.report then
           t.offerReport c { channel := c, stepLeft := ch.seq.currentStep, bank := ch.store.active, cause := cause,
                             stepEntered := some i, reference := ref, cycle := cycle % 65536,
                             span := if cause = .sensed then ch.seq.edgeSpan else none }
         else t)

/-- An advance that leaves a mark takes what is pending there (R39): a graceful stop ends the run, with a pending swap taken, and completes SUCCESS;
a pending swap alone is taken, completes SUCCESS, and step 0 of the newly active bank is entered. The report follows (R43, R45). -/
def Obligations.AdvanceTakesWhatIsPendingAtAMark : Prop :=
  ∀ (s : State) (c : ChannelId) (cause : AdvanceCause) (ch now : Channel) (r : StepRecord) (ref : Nat),
    s.channel c = ch → ch.store.activeBank.read ch.seq.currentStep = some r → r.mark = true →
    ref = (match r.mode with
      | .timed _ | .scaled _ => if r.seed then max 1 (min 65535 ch.seq.windows.length) else ch.est.reference
      | .sensed _ _ _ _ _ | .hosted _ => ch.est.reference) →
    now = { ch with
      est := { ch.est with reference := ref }, seq := { ch.seq with cycle := (ch.seq.cycle + 1) % 4294967296 } } →
    (∀ g, ch.seq.state = .stopping g →
      s.advanceStep c cause =
        (let t := ((s.withChannel c now).endRun c).complete g.slot .success 0
         if r.report then
           t.offerReport c { channel := c, stepLeft := ch.seq.currentStep, bank := ch.store.active, cause := cause,
                             stepEntered := none, reference := ref, cycle := now.seq.cycle % 65536,
                             span := if cause = .sensed then ch.seq.edgeSpan else none }
         else t)) ∧
    (∀ k e, ch.seq.state = .running → ch.store.standby = .swapPending k → ch.store.standbyBank.read 0 = some e →
      s.advanceStep c cause =
        (let t := (s.withChannel c (Channel.entering
          { now with
            store := ch.store.exchanged .ready,
            seq := { now.seq with loopOwner := none, loopCounter := 0 } } 0 e (windowsOf ref e.mode))).complete k .success 0
         if r.report then
           t.offerReport c { channel := c, stepLeft := ch.seq.currentStep, bank := ch.store.active, cause := cause,
                             stepEntered := some 0, reference := ref, cycle := now.seq.cycle % 65536,
                             span := if cause = .sensed then ch.seq.edgeSpan else none }
         else t))

/-- ADVANCE makes the current step advance when it is HOSTED, completing SUCCESS after what the advance hands with the step entered as its detail,
or 16 where it left a mark with a graceful stop pending, and is refused in every other step and state (R36, R45).
Everything is read on the settled state, the model's reading of R128 and R160 (log entry 1). -/
def Obligations.AdvanceNeedsAHostedStep : Prop :=
  ∀ (s u : State) (k : SlotId) (c : ChannelId) (tag : BitVec 16) (channel : Byte),
    s.Dispatches .advance tag channel k u → channelOf channel = some c →
    ((u.channel c).isOn = false → exec (.advance tag channel) s = .next (u.complete k .stateConflict 0)) ∧
    (∀ r, (u.channel c).store.activeBank.read (u.channel c).seq.currentStep = some r →
      (∀ limit, r.mode ≠ .hosted limit) → exec (.advance tag channel) s = .next (u.complete k .stateConflict 0)) ∧
    (∀ r limit, (u.channel c).isOn = true → (u.channel c).store.activeBank.read (u.channel c).seq.currentStep = some r →
      r.mode = .hosted limit →
      exec (.advance tag channel) s = .next ((u.advanceStep c .hosted).complete k .success
        (match (u.channel c).seq.state, r.mark with
         | .stopping _, true => 16
         | _, _ => ((u.advanceStep c .hosted).channel c).seq.currentStep.val)))

/-- A timeout reached with no edge taken counts one forced advance: at the forced limit the channel faults with LOST_SENSE,
below it the span becomes invalid and the step advances with cause FORCED (R31). A timeout not reached, or cancelled by the taken edge, does nothing; that its row is then no event is the model's reading (log entry 2).
Everything is read on the settled state, the model's reading of R128 and R160 (log entry 1). -/
def Obligations.TimeoutForcesAdvance : Prop :=
  ∀ (s : State) (c : ChannelId) (ch : Channel) (r : StepRecord) (line : LineId) (edge : EdgeKind) (blank delay timeout : Nat),
    s.resetPin = false → s.settle.channel c = ch → ch.isOn = true →
    ch.store.activeBank.read ch.seq.currentStep = some r → r.mode = .sensed line edge blank delay timeout →
    (ch.seq.edgeTaken = false → ch.seq.windows.timeout ≤ ch.est.stepTimer →
      ch.est.forcedCount + 1 = ch.settings.forcedLimit →
      exec (.timeout c) s = .next
        ((s.settle.withChannel c { ch with est := { ch.est with forcedCount := ch.est.forcedCount + 1 } }).faultEntry c .lostSense)) ∧
    (ch.seq.edgeTaken = false → ch.seq.windows.timeout ≤ ch.est.stepTimer →
      ch.est.forcedCount + 1 ≠ ch.settings.forcedLimit →
      exec (.timeout c) s = .next
        ((s.settle.withChannel c
          { ch with est := { ch.est with forcedCount := ch.est.forcedCount + 1, spanValid := false } }).advanceStep c .forced)) ∧
    ((ch.seq.edgeTaken = true ∨ ch.est.stepTimer < ch.seq.windows.timeout) → exec (.timeout c) s = .next s.settle)

/-- A SENSED step advances when its delay after the taken edge has run (R30), a TIMED or SCALED step when its length is reached (R33); a row sent before that is no event, the model's reading (log entry 2).
Everything is read on the settled state, the model's reading of R128 and R160 (log entry 1). -/
def Obligations.DelaysAndLengthsEndSteps : Prop :=
  ∀ (s : State) (c : ChannelId) (ch : Channel) (r : StepRecord),
    s.resetPin = false → s.settle.channel c = ch → ch.isOn = true →
    ch.store.activeBank.read ch.seq.currentStep = some r →
    (∀ line edge blank delay timeout, r.mode = .sensed line edge blank delay timeout →
      (ch.seq.edgeTaken = true → ch.seq.edgeTimer + ch.seq.windows.delay ≤ ch.est.stepTimer →
        exec (.delayEnd c) s = .next (s.settle.advanceStep c .sensed)) ∧
      ((ch.seq.edgeTaken = false ∨ ch.est.stepTimer < ch.seq.edgeTimer + ch.seq.windows.delay) →
        exec (.delayEnd c) s = .next s.settle)) ∧
    (∀ duration, r.mode = .timed duration →
      exec (.lengthEnd c) s = .next
        (if ch.seq.windows.length ≤ ch.est.stepTimer then s.settle.advanceStep c .timed else s.settle)) ∧
    (∀ factor, r.mode = .scaled factor →
      exec (.lengthEnd c) s = .next
        (if ch.seq.windows.length ≤ ch.est.stepTimer then s.settle.advanceStep c .scaled else s.settle))

/-- A nonzero host limit reached in a HOSTED step faults the channel with HOST_TIMEOUT (R35);
a sample that finds the trip line active faults a RUNNING or STOPPING channel with TRIP and any other sample sets the sampled level alone (R76, R77, R88).
Everything is read on the settled state, the model's reading of R128 and R160 (log entry 1).
That a trip row carries the sampled level is the model's reading (log entry 7), and so is that the row of a limit of 0 or not reached is no event (log entry 2). -/
def Obligations.HostLimitAndTripFault : Prop :=
  ∀ (s : State) (c : ChannelId) (ch : Channel), s.resetPin = false → s.settle.channel c = ch →
    (∀ r limit, ch.isOn = true → ch.store.activeBank.read ch.seq.currentStep = some r → r.mode = .hosted limit →
      exec (.hostLimitExpiry c) s = .next
        (if ch.seq.windows.hostLimit ≠ 0 ∧ ch.seq.windows.hostLimit ≤ ch.est.stepTimer then
          s.settle.faultEntry c .hostTimeout
        else s.settle)) ∧
    (∀ level, (ch.isOn = false ∨ level ≠ ch.settings.tripLevel) →
      exec (.trip c level) s = .next (s.settle.withChannel c { ch with sense := { ch.sense with tripLine := level } })) ∧
    (∀ level, ch.isOn = true → level = ch.settings.tripLevel →
      exec (.trip c level) s = .next
        ((s.settle.withChannel c { ch with sense := { ch.sense with tripLine := level } }).faultEntry c .trip))

/-! ### Stops, faults and recovery (chapter 5) -/

/-- Fault entry acts on a RUNNING or STOPPING channel alone: it floats the legs, ends the override, stops the divider and records the cause (R88, R90).
For any cause but ENGINE a pending swap is withdrawn and completes CHANNEL_FAULT, then a pending graceful STOP does, then the notice is offered (R91).
For ENGINE the commands have been discarded, so no slot is in use and no swap pends, and the notice alone is offered (R92). -/
def Obligations.FaultEntryEndsPendingCommands : Prop :=
  ∀ (s : State) (c : ChannelId) (cause : FaultCause) (ch : Channel), s.channel c = ch →
    (ch.isOn = false → s.faultEntry c cause = s) ∧
    (ch.isOn = true → cause ≠ .engine → ∀ t : State,
      (∀ k, ch.store.standby = .swapPending k →
        t = (s.withChannel c { ch.resting (.fault cause) with store := { ch.store with standby := .ready } }).complete k .channelFault 0) →
      ((∀ k, ch.store.standby ≠ .swapPending k) → t = s.withChannel c (ch.resting (.fault cause))) →
      (ch.seq.state = .running → s.faultEntry c cause = t.offerChannelNotice c cause) ∧
      (∀ g, ch.seq.state = .stopping g →
        s.faultEntry c cause = (t.complete g.slot .channelFault 0).offerChannelNotice c cause)) ∧
    (ch.isOn = true → (∀ k, s.slot k = .free) → (∀ k, ch.store.standby ≠ .swapPending k) →
      s.faultEntry c .engine = (s.withChannel c (ch.resting (.fault .engine))).offerChannelNotice c .engine)

/-- A run that ends in a stop leaves the channel IDLE with its legs floating, its override away, its divider stopped and its forced count 0;
a pending swap is taken with the loop cleared and completes SUCCESS (R82).
A nonzero deadline that its count has reached ends the run, and the graceful STOP completes DEADLINE after the COMMIT_STEPS (R85);
a row sent before that is no event, the model's reading (log entry 2).
Everything is read on the settled state, the model's reading of R128 and R160 (log entry 1). -/
def Obligations.StopsEndTheRun : Prop :=
  (∀ (s : State) (c : ChannelId) (ch rest : Channel), s.channel c = ch →
    rest = { ch.resting .idle with est := { (ch.resting .idle).est with forcedCount := 0 } } →
    (∀ k, ch.store.standby = .swapPending k →
      s.endRun c = (s.withChannel c { rest with
        store := ch.store.exchanged .ready,
        seq := { rest.seq with loopOwner := none, loopCounter := 0 } }).complete k .success 0) ∧
    ((∀ k, ch.store.standby ≠ .swapPending k) → s.endRun c = s.withChannel c rest)) ∧
  ∀ (s : State) (c : ChannelId) (g : Graceful), s.resetPin = false → (s.settle.channel c).seq.state = .stopping g →
    exec (.deadline c) s = .next
      (if g.deadline ≠ 0 ∧ g.deadline ≤ g.count then (s.settle.endRun c).complete g.slot .deadline 0 else s.settle)

/-- STOP by its mode and the channel state (R81): refused for an unused mode, in FAULT, and AT_MARK in STOPPING; done at once in IDLE;
IMMEDIATE ends the run and overtakes a pending graceful stop (R83); AT_MARK in RUNNING makes the channel STOPPING and stays in flight (R84).
Everything is read on the settled state, the model's reading of R128 and R160 (log entry 1). -/
def Obligations.StopIsTakenByModeAndState : Prop :=
  ∀ (s u : State) (k : SlotId) (c : ChannelId) (tag : BitVec 16) (channel mode : Byte) (deadline : BitVec 16),
    s.Dispatches .stop tag channel k u → channelOf channel = some c →
    exec (.stop tag channel mode deadline) s = .next
      (if mode ≠ 0 ∧ mode ≠ 1 then u.complete k .invalidField 0
      else match (u.channel c).seq.state with
        | .idle => u.complete k .success 0
        | .fault _ => u.complete k .stateConflict 0
        | .running =>
          if mode = 0 then (u.endRun c).complete k .success 0
          else u.withChannel c { u.channel c with
            seq := { (u.channel c).seq with state := .stopping { deadline := deadline.toNat, count := 0, slot := k } } }
        | .stopping g =>
          if mode = 0 then ((u.endRun c).complete g.slot .overtaken 0).complete k .success 0
          else u.complete k .stateConflict 0)

/-- CLEAR_FAULT is refused outside FAULT and while the trip line is active, and else makes the channel IDLE
with the cause NONE, the forced count 0 and the loop cleared (R97).
The trip line is read at the level of its last sample, the model's reading of R77 (log entry 7).
Everything is read on the settled state, the model's reading of R128 and R160 (log entry 1). -/
def Obligations.ClearFaultIsChecked : Prop :=
  ∀ (s u : State) (k : SlotId) (c : ChannelId) (tag : BitVec 16) (channel : Byte),
    s.Dispatches .clearFault tag channel k u → channelOf channel = some c →
    ((∀ x, (u.channel c).seq.state ≠ .fault x) → exec (.clearFault tag channel) s = .next (u.complete k .stateConflict 0)) ∧
    (∀ x, (u.channel c).seq.state = .fault x → (u.channel c).sense.tripLine = (u.channel c).settings.tripLevel →
      exec (.clearFault tag channel) s = .next (u.complete k .tripActive 0)) ∧
    (∀ x, (u.channel c).seq.state = .fault x → (u.channel c).sense.tripLine ≠ (u.channel c).settings.tripLevel →
      exec (.clearFault tag channel) s = .next
        ((u.withChannel c { u.channel c with
          est := { (u.channel c).est with forcedCount := 0 },
          seq := { (u.channel c).seq with state := .idle, loopOwner := none, loopCounter := 0 } }).complete k .success 0))

/-! ### Edges, ticks, periods and lines (chapters 3 and 4) -/

/-- A taken edge with a valid span below a nonzero minimum interval faults the channel and leaves the reference; any other updates the reference when the span is valid,
records the edge, and advances at once when the delay is 0; every taken edge restarts a valid span and clears the forced count (R29, R30, R54, R55, R56, R57). -/
def Obligations.TakenEdgeUpdatesTheReference : Prop :=
  (∀ (s : State) (c : ChannelId) (ch : Channel), s.channel c = ch →
    let valid := ch.est.spanValid = true ∧ 1 ≤ ch.est.spanCounter ∧ ch.est.spanCounter ≤ 65534
    let fast := ch.settings.minInterval ≠ 0 ∧ ch.est.spanCounter < ch.settings.minInterval
    (valid → fast → s.takeEdge c =
      (s.withChannel c { ch with est := { ch.est with spanCounter := 0, spanValid := true, forcedCount := 0 } }).faultEntry
        c .overspeed) ∧
    ∀ t : State,
      (valid → t = s.withChannel c { ch with
        est := { ch.est with
          spanCounter := 0, spanValid := true, forcedCount := 0,
          reference := smoothed ch.est.reference ch.est.spanCounter ch.settings.shift },
        seq := { ch.seq with edgeTaken := true, edgeSpan := some ch.est.spanCounter, edgeTimer := ch.est.stepTimer } }) →
      (¬valid → t = s.withChannel c { ch with
        est := { ch.est with spanCounter := 0, spanValid := true, forcedCount := 0 },
        seq := { ch.seq with edgeTaken := true, edgeSpan := none, edgeTimer := ch.est.stepTimer } }) →
      ((valid → ¬fast) → s.takeEdge c = if ch.seq.windows.delay = 0 then t.advanceStep c .sensed else t)) ∧
  (∀ reference span k : Nat,
    (reference ≤ span → smoothed reference span k = reference + (span - reference) / 2 ^ k) ∧
    (span ≤ reference → smoothed reference span k = reference - (reference - span) / 2 ^ k))

/-- A sample of the sense lines moves the filter of each line (R72). The edges it makes are delivered in its event (R74, R75):
one is taken by a SENSED step that watches the line for its kind, once the blank end has been found and until an edge has been taken, and by nothing else (R28).
Where the step that took it advances at once into a step of blank end 0, that step examines the sample's other edges, delivered in the event of its entry (R28), and so on; the edge taken is not offered again, the model's choice (log entry 27).
The blank end is found when the step timer has reached it, and edges are delivered from then on (R51); a BLANK_END row sent before that is no event, the model's reading (log entry 2).
That the row carries the levels sampled is the model's reading (log entry 22).
Everything is read on the settled state, the model's reading of R128 and R160 (log entry 1). -/
def Obligations.EdgesAreTakenBySensedSteps : Prop :=
  (∀ (s t : State) (c : ChannelId) (ch : Channel) (sense : Sense) (sample : Table 3 Level),
    s.resetPin = false → s.settle.channel c = ch → ch.sense.After sense (2 ^ ch.settings.filter) sample →
    t = s.settle.withChannel c { ch with sense := sense } →
    ((∀ l, ch.makesEdge sample l → ¬ch.awaits l (sample.read l)) → exec (.senseEdge c sample) s = .next t) ∧
    (∀ (l : LineId) (u : State), ch.makesEdge sample l → ch.awaits l (sample.read l) → u = t.takeEdge c →
      ((∀ m, m ≠ l → ch.makesEdge sample m → ¬(u.channel c).awaits m (sample.read m)) →
        exec (.senseEdge c sample) s = .next u) ∧
      (∀ (m : LineId) (v : State), m ≠ l → ch.makesEdge sample m → (u.channel c).awaits m (sample.read m) → v = u.takeEdge c →
        ((∀ n, n ≠ l → n ≠ m → ch.makesEdge sample n → ¬(v.channel c).awaits n (sample.read n)) →
          exec (.senseEdge c sample) s = .next v) ∧
        (∀ n, n ≠ l → n ≠ m → ch.makesEdge sample n → (v.channel c).awaits n (sample.read n) →
          exec (.senseEdge c sample) s = .next (v.takeEdge c))))) ∧
  ∀ (s : State) (c : ChannelId) (ch : Channel) (r : StepRecord) (line : LineId) (edge : EdgeKind) (blank delay timeout : Nat),
    s.resetPin = false → s.settle.channel c = ch → ch.isOn = true →
    ch.store.activeBank.read ch.seq.currentStep = some r → r.mode = .sensed line edge blank delay timeout →
    (ch.seq.windows.blankEnd ≤ ch.est.stepTimer →
      exec (.blankEnd c) s = .next (s.settle.withChannel c { ch with seq := { ch.seq with blankFound := true } })) ∧
    (ch.est.stepTimer < ch.seq.windows.blankEnd → exec (.blankEnd c) s = .next s.settle)

/-- A tick counts one on the step timer, the span counter and a pending deadline of a RUNNING or STOPPING channel, each up to its hold,
and marks the span invalid when its counter reaches 65535 (R48, R50, R52, R85); outside a run it counts nothing.
A tick that finds a blank end, a window or a deadline already reached first does what that end does (R30, R31, R33, R35, R51, R85), a window and a deadline in either order, and then counts.
Everything is read on the settled state, the model's reading of R128 and R160 (log entry 1).
That a tick comes after the windows the tick before it reached (log entry 4), what the saturation row does at each count (log entry 5), and that a tick restarts the divider and outside a run counts nothing (log entry 23) are the model's choice. -/
def Obligations.TicksCount : Prop :=
  (∀ (s : State) (c : ChannelId) (ch : Channel), s.resetPin = false → s.settle.channel c = ch →
    ch.blankDue = false → ch.windowDue = false → ch.deadlineDue = false →
    exec (.tick c) s = .next (s.settle.withChannel c ch.ticked) ∧
    (ch.isOn = true → ch.est.spanCounter = 65535 → exec (.spanCounterSaturation c) s = .next
      (s.settle.withChannel c { ch with est := { ch.est with spanValid := false } })) ∧
    (ch.isOn = true → ch.est.spanCounter = 65534 → exec (.spanCounterSaturation c) s = exec (.tick c) s) ∧
    ((ch.isOn = false ∨ ch.est.spanCounter < 65534) → exec (.spanCounterSaturation c) s = .next s.settle)) ∧
  ∀ (s b w : State) (c : ChannelId) (ch found : Channel) (r : StepRecord),
    s.resetPin = false → s.settle.channel c = ch → ch.isOn = true →
    ch.store.activeBank.read ch.seq.currentStep = some r →
    found = { ch with seq := { ch.seq with blankFound := ch.seq.blankFound || ch.blankDue } } →
    b = { s.settle.withChannel c found with
      choice := s.settle.choice + if ch.windowDue = true ∧ ch.deadlineDue = true then 1 else 0 } →
    (ch.windowDue = true → w = match r.mode with
      | .sensed _ _ _ _ _ =>
        if ch.seq.edgeTaken = true then b.advanceStep c .sensed
        else if ch.est.forcedCount + 1 = ch.settings.forcedLimit then
          (b.withChannel c { found with est := { found.est with forcedCount := ch.est.forcedCount + 1 } }).faultEntry c .lostSense
        else
          (b.withChannel c
            { found with est := { found.est with forcedCount := ch.est.forcedCount + 1, spanValid := false } }).advanceStep c .forced
      | .timed _ => b.advanceStep c .timed
      | .scaled _ => b.advanceStep c .scaled
      | .hosted _ => b.faultEntry c .hostTimeout) →
    (ch.windowDue = true ↔ match r.mode with
      | .sensed _ _ _ _ _ =>
        (ch.seq.edgeTaken = true ∧ ch.seq.edgeTimer + ch.seq.windows.delay ≤ ch.est.stepTimer) ∨
        (ch.seq.edgeTaken = false ∧ ch.seq.windows.timeout ≤ ch.est.stepTimer)
      | .timed _ | .scaled _ => ch.seq.windows.length ≤ ch.est.stepTimer
      | .hosted _ => ch.seq.windows.hostLimit ≠ 0 ∧ ch.seq.windows.hostLimit ≤ ch.est.stepTimer) ∧
    (ch.windowDue = false → ch.deadlineDue = false → exec (.tick c) s = .next (b.withChannel c found.ticked)) ∧
    (ch.windowDue = true → ch.deadlineDue = false →
      exec (.tick c) s = .next (w.withChannel c (w.channel c).ticked)) ∧
    (∀ g, ch.seq.state = .stopping g → ∀ d : State, d = (b.endRun c).complete g.slot .deadline 0 →
      (ch.deadlineDue = true ↔ g.deadline ≠ 0 ∧ g.deadline ≤ g.count) ∧
      (ch.windowDue = false → ch.deadlineDue = true →
        exec (.tick c) s = .next (d.withChannel c (d.channel c).ticked)) ∧
      (ch.windowDue = true → ch.deadlineDue = true →
        exec (.tick c) s = .next (d.withChannel c (d.channel c).ticked) ∨
        ∃ x : State, exec (.tick c) s = .next (x.withChannel c (x.channel c).ticked) ∧
          x = match (w.channel c).seq.state with
            | .stopping h => (w.endRun c).complete h.slot .deadline 0
            | .idle | .running | .fault _ => w))

/-- SET_DUTY puts a duty up to 4096 into the shadow and refuses a larger one (R69);
a period start takes the shadow, puts a staged override in force, and fixes the period duty within the period (R68).
Everything is read on the settled state, the model's reading of R128 and R160 (log entry 1).
The period start is the row itself (log entry 23). -/
def Obligations.PeriodStartsTakeTheDuty : Prop :=
  (∀ (s u : State) (k : SlotId) (c : ChannelId) (tag : BitVec 16) (channel : Byte) (duty : BitVec 16),
    s.Dispatches .setDuty tag channel k u → channelOf channel = some c →
    exec (.setDuty tag channel duty) s = .next
      (if 4096 < duty.toNat then u.complete k .invalidField 0
      else (u.withChannel c { u.channel c with
        pwm := { (u.channel c).pwm with shadow := some duty.toNat } }).complete k .success 0)) ∧
  (∀ (s : State) (c : ChannelId) (ch : Channel) (duty : Nat) (override : DutyOverride),
    s.resetPin = false → s.settle.channel c = ch →
    (ch.pwm.shadow = none → duty = ch.pwm.duty) → (∀ d, ch.pwm.shadow = some d → duty = d) →
    (∀ d, ch.pwm.override = .staged d → override = .inForce d) →
    ((∀ d, ch.pwm.override ≠ .staged d) → override = ch.pwm.override) →
    exec (.periodStart c) s = .next
      (s.settle.withChannel c { ch with
        pwm := { counter := 0, duty := duty, shadow := none, override := override,
                 periodDuty := match override with
                   | .inForce d => min ch.settings.period d
                   | .none | .staged _ => min ch.settings.period duty } }))

/-- The upper and lower gate line of a leg are never on together; outside a run both are off, and in a run they are as the leg-state table gives (R5, R65, R67). -/
def Obligations.GateLinesFollowTheLegState : Prop :=
  ∀ (ch : Channel) (leg : LegState),
    ¬((ch.gateLines leg).1 = true ∧ (ch.gateLines leg).2 = true) ∧
    (ch.isOn = false → ch.gateLines leg = (false, false)) ∧
    (ch.isOn = true →
      ch.gateLines .float = (false, false) ∧ ch.gateLines .upperOn = (true, false) ∧ ch.gateLines .lowerOn = (false, true) ∧
      ch.gateLines .upperPwm = (decide (ch.pwm.counter < ch.pwm.periodDuty), false) ∧
      ch.gateLines .lowerPwm = (false, decide (ch.pwm.counter < ch.pwm.periodDuty)) ∧
      ch.gateLines .pairPwm = (decide (ch.pwm.counter < ch.pwm.periodDuty), decide (ch.pwm.periodDuty ≤ ch.pwm.counter)))

/-! ### The command table's commands (chapter 6) -/

/-- SET_CHANNEL is checked in the order of R115, and one that passes writes all eight settings, restarts the period counter with a period start of the new period,
and clears the three run counts (R71, R73, R115).
Everything is read on the settled state, the model's reading of R128 and R160 (log entry 1). -/
def Obligations.SetChannelIsChecked : Prop :=
  ∀ (s u : State) (k : SlotId) (c : ChannelId) (tag : BitVec 16)
    (channel prescale shift forcedLimit filter tripLevel reportCq : Byte) (minInterval period : BitVec 16),
    s.Dispatches .setChannel tag channel k u → channelOf channel = some c →
    ((¬∃ x : Settings, x.SpelledBy prescale shift forcedLimit filter tripLevel reportCq minInterval period) →
      exec (.setChannel tag channel prescale shift forcedLimit filter tripLevel reportCq minInterval period) s =
        .next (u.complete k .invalidField 0)) ∧
    (∀ x : Settings, x.SpelledBy prescale shift forcedLimit filter tripLevel reportCq minInterval period →
      ((∃ q, x.reportCq = some q ∧ (u.cq q).state ≠ .opened) →
        exec (.setChannel tag channel prescale shift forcedLimit filter tripLevel reportCq minInterval period) s =
          .next (u.complete k .invalidQueue 0)) ∧
      ((∀ q, x.reportCq = some q → (u.cq q).state = .opened) → (u.channel c).seq.state ≠ .idle →
        exec (.setChannel tag channel prescale shift forcedLimit filter tripLevel reportCq minInterval period) s =
          .next (u.complete k .stateConflict 0)) ∧
      ((∀ q, x.reportCq = some q → (u.cq q).state = .opened) → (u.channel c).seq.state = .idle →
        exec (.setChannel tag channel prescale shift forcedLimit filter tripLevel reportCq minInterval period) s =
          .next ((u.withChannel c { u.channel c with
            settings := x,
            pwm := (u.channel c).pwm.periodStart x.period,
            sense := { (u.channel c).sense with runs := Table.fill 3 0 } }).complete k .success 0)))

/-- READ_CHANNEL is checked in the order of R117 and hands one write; the write's end completes it SUCCESS, its failure BUS_ERROR.
Where the command was discarded, the write's end or failure completes nothing, and a halt that waits for it ends (R110, R117, R177); that these rows end such a write is the model's reading (log entry 13).
A row with no write to answer is no event (log entry 2). What CQ0 holds after the halt is the model's reading (log entry 18).
Everything is read on the settled state, the model's reading of R128 and R160 (log entry 1). -/
def Obligations.ReadChannelWritesASnapshot : Prop :=
  (∀ (s u : State) (k : SlotId) (tag : BitVec 16) (channel : Byte) (destination : Addr),
    s.Dispatches .readChannel tag channel k u →
    exec (.readChannel tag channel destination) s = .next
      (if destination.toNat % 16 ≠ 0 then u.complete k .invalidField 0
      else if inOneWindow u.windows .write destination.toNat 32 = false then u.complete k .accessDenied 0
      else u.handed (.snapshot k) destination)) ∧
  (∀ (s : State) (k : SlotId), s.resetPin = false →
    (s.settle.port.answers (.snapshot k) = true →
      exec (.snapshotWriteDone k) s = .next ((s.settle.ended (.snapshot k)).complete k .success 0)) ∧
    (s.settle.port.fails (.snapshot k) = true →
      exec (.snapshotWriteError k) s = .next ((s.settle.ended (.snapshot k)).complete k .busError 0)) ∧
    (s.settle.port.hasDiscarded (.snapshot k) = true →
      exec (.snapshotWriteDone k) s = .next (s.settle.endedUnused (.snapshot k)) ∧
      exec (.snapshotWriteError k) s = .next (s.settle.endedUnused (.snapshot k))) ∧
    (s.settle.port.hasDiscarded (.snapshot k) = false →
      (s.settle.port.answers (.snapshot k) = false → exec (.snapshotWriteDone k) s = .next s.settle) ∧
      (s.settle.port.fails (.snapshot k) = false → exec (.snapshotWriteError k) s = .next s.settle)))

/-- CANCEL looks among the WORKING slots other than its own for the oldest with the target's SQ id and tag:
none is NOT_FOUND; a command that cannot be ended is NOT_CANCELABLE; else a request naming the slot and its fetch is handed and the CANCEL stays in flight (R111, R112).
Everything is read on the settled state, the model's reading of R128 and R160 (log entry 1). -/
def Obligations.CancelFindsTheOldestMatch : Prop :=
  ∀ (s u : State) (k : SlotId) (tag : BitVec 16) (queue : Byte) (target : BitVec 16),
    s.Dispatches .cancel tag 0 k u →
    (7 < queue.toNat → exec (.cancel tag queue target) s = .next (u.complete k .invalidQueue 0)) ∧
    (∀ q : QueueId, queue.toNat = q.val →
      ((∀ j w, j ≠ k → u.slot j = .working w → ¬(w.sq = q ∧ w.tag = target)) →
        exec (.cancel tag queue target) s = .next (u.complete k .notFound 0)) ∧
      (∀ j w, j ≠ k → u.slot j = .working w → w.sq = q → w.tag = target →
        (∀ i v, i ≠ k → i ≠ j → u.slot i = .working v → v.sq = q → v.tag = target → w.age < v.age) →
        exec (.cancel tag queue target) s = .next
          (match w.code with
           | .loadSteps | .commitSteps | .stop =>
             { u with cancels := u.cancels ++ [{ canceller := k, target := j, targetAge := w.age }] }
           | _ => u.complete k .notCancelable 0)))

/-- The owner ends a target it finds still waiting (the load, the pending swap, the graceful stop) and hands ABORTED for it and SUCCESS for the CANCEL;
a target whose slot is free, holds a later fetch or no longer waits gives the CANCEL NOT_FOUND and is not touched (R15, R19, R87, R112).
Everything is read on the settled state, the model's reading of R128 and R160 (log entry 1). -/
def Obligations.CancelRequestsAreAnswered : Prop :=
  ∀ (s t : State) (k : SlotId) (x : CancelRequest),
    s.resetPin = false → s.settle.cancels.find? (fun y => y.canceller == k) = some x →
    t = { s.settle with cancels := s.settle.cancels.eraseP fun y => y.canceller == k } →
    ((∀ w, t.slot x.target = .working w → w.age ≠ x.targetAge) →
      exec (.cancelRequest k) s = .next (t.complete x.canceller .notFound 0)) ∧
    (∀ w c, t.slot x.target = .working w → w.age = x.targetAge → channelOf w.channel = some c →
      (∀ l, w.code = .loadSteps → (t.channel c).store.standby = .loading l → l.slot = x.target →
        exec (.cancelRequest k) s = .next
          ((((t.withChannel c ((t.channel c).withStandby (match l.prior with
              | .empty => .empty
              | .ready => .ready))).withPort
            { requests := t.port.requests.map fun y => if y.requester = .load c then { y with discarded := true } else y,
              begun := t.port.begun.map fun y => if y.requester = .load c then { y with discarded := true } else y }).complete
            x.target .aborted 0).complete x.canceller .success 0)) ∧
      (w.code = .loadSteps → (∀ l, (t.channel c).store.standby = .loading l → l.slot ≠ x.target) →
        exec (.cancelRequest k) s = .next (t.complete x.canceller .notFound 0)) ∧
      (w.code = .commitSteps → (t.channel c).store.standby = .swapPending x.target →
        exec (.cancelRequest k) s = .next
          (((t.withChannel c ((t.channel c).withStandby .ready)).complete x.target .aborted 0).complete x.canceller .success 0)) ∧
      (w.code = .commitSteps → (t.channel c).store.standby ≠ .swapPending x.target →
        exec (.cancelRequest k) s = .next (t.complete x.canceller .notFound 0)) ∧
      (∀ g, w.code = .stop → (t.channel c).seq.state = .stopping g → g.slot = x.target →
        exec (.cancelRequest k) s = .next
          (((t.withChannel c { t.channel c with seq := { (t.channel c).seq with state := .running } }).complete
            x.target .aborted 0).complete x.canceller .success 0)) ∧
      (w.code = .stop → (∀ g, (t.channel c).seq.state = .stopping g → g.slot ≠ x.target) →
        exec (.cancelRequest k) s = .next (t.complete x.canceller .notFound 0)))

/-! ### Submission queues (chapter 7) -/

/-- OPEN_SQ is checked in the order of R122 and opens the queue empty with the given base, size, CQ and class;
CLOSE_SQ closes the queue at once when no slot holds its id and makes it CLOSING otherwise, and is refused in CLOSED and CLOSING (R123).
Everything is read on the settled state, the model's reading of R128 and R160 (log entry 1). -/
def Obligations.SubmissionQueuesOpenAndClose : Prop :=
  (∀ (s u : State) (k : SlotId) (tag : BitVec 16) (queue boundCq priority : Byte) (size : BitVec 16) (base : Addr),
    s.Dispatches .openSq tag 0 k u →
    (queue = 0 ∨ 7 < queue.toNat →
      exec (.openSq tag queue boundCq priority size base) s = .next (u.complete k .invalidQueue 0)) ∧
    (∀ q : QueueId, q ≠ 0 → queue.toNat = q.val →
      exec (.openSq tag queue boundCq priority size base) s = .next
        (if (u.sq q).state ≠ .closed then u.complete k .invalidQueue 0
        else if ¬(4 ≤ size.toNat ∧ size.toNat ≤ 1024 ∧ priority.toNat ≤ 3 ∧ base.toNat % 64 = 0) then
          u.complete k .invalidField 0
        else if boundCq = 0 ∨ 7 < boundCq.toNat then u.complete k .invalidQueue 0
        else if (u.cq (Fin.ofNat 8 boundCq.toNat)).state ≠ .opened then u.complete k .invalidQueue 0
        else if inOneWindow u.windows .read base.toNat (32 * size.toNat) = false then u.complete k .accessDenied 0
        else (u.withSq q { state := .opened, base := base, size := size.toNat, head := 0, tail := 0,
                           boundCq := some (Fin.ofNat 8 boundCq.toNat),
                           priority := .level (Fin.ofNat 4 priority.toNat) }).complete k .success 0))) ∧
  (∀ (s u : State) (k : SlotId) (tag : BitVec 16) (queue : Byte), s.Dispatches .closeSq tag 0 k u →
    (queue = 0 ∨ 7 < queue.toNat → exec (.closeSq tag queue) s = .next (u.complete k .invalidQueue 0)) ∧
    (∀ q : QueueId, q ≠ 0 → queue.toNat = q.val →
      ((u.sq q).state = .closed → exec (.closeSq tag queue) s = .next (u.complete k .invalidQueue 0)) ∧
      (∀ j, (u.sq q).state = .closing j → exec (.closeSq tag queue) s = .next (u.complete k .stateConflict 0)) ∧
      ((u.sq q).state = .opened ∨ (u.sq q).state = .broken →
        ((∃ j, (u.slot j).sqId = some q) →
          exec (.closeSq tag queue) s = .next (u.withSq q { u.sq q with state := .closing (some k) })) ∧
        ((∀ j, (u.slot j).sqId ≠ some q) →
          exec (.closeSq tag queue) s = .next ((u.withSq q { u.sq q with state := .closed }).complete k .success 0)))))

/-- A queue is eligible by the five conditions of R127. The arbiter chooses SQ0 when it is eligible, and else the eligible I/O queue of the lowest class
that comes first after the class's last-served id, going upward and round from 7 to 1 (R129). -/
def Obligations.ArbiterChoosesByClassAndRound : Prop :=
  ∀ s : State,
    (∀ q, s.eligible q = true ↔
      (s.sq q).state = .opened ∧ ((s.sq q).tail + (s.sq q).size - (s.sq q).head) % (s.sq q).size ≠ 0 ∧
      (∃ k, s.slot k = .free) ∧
      ∃ b, (s.sq q).boundCq = some b ∧ (s.cq b).state = .opened ∧ (s.cq b).reserved < (s.cq b).free) ∧
    (s.eligible 0 = true → s.choose = some 0) ∧
    (s.eligible 0 = false → ∀ q, s.choose = some q ↔
      q ≠ 0 ∧ s.eligible q = true ∧ ∃ n, (s.sq q).priority = .level n ∧
        (∀ i m, i ≠ 0 → s.eligible i = true → (s.sq i).priority = .level m → n ≤ m) ∧
        ∀ i, i ≠ 0 → s.eligible i = true → (s.sq i).priority = .level n →
          roundRank (s.lastServed.read n) q ≤ roundRank (s.lastServed.read n) i)

/-- While the engine is RUNNING with no fetch read outstanding, the chosen queue's fetch takes a FREE slot and a reservation, becomes last served in its class,
and hands a 32-byte read at its head (R128, R130); with no queue eligible, a read outstanding, or the engine not RUNNING, nothing starts.
Which FREE slot is taken, that of lowest number, is the model's choice (log entry 9).
The settled state other statements read is the state FETCH_START answers with transactions begun at the port, and no fetch start is due in it any more, the model's reading of R128 (log entry 1). -/
def Obligations.FetchStartsOnTheChosenQueue : Prop :=
  ∀ s : State, s.resetPin = false →
    (∀ t, exec .fetchStart s = .next t →
      s.settle = { t with port := s.settle.port } ∧ exec .fetchStart s.settle = .next s.settle) ∧
    (s.freeSlot = none ↔ ∀ k, s.slot k ≠ .free) ∧
    (∀ k, s.freeSlot = some k ↔ s.slot k = .free ∧ ∀ j, j < k → s.slot j ≠ .free) ∧
    ((s.engine.state ≠ .running ∨ s.fetch ≠ none ∨ s.choose = none) → exec .fetchStart s = .next s) ∧
    (∀ q k b, s.engine.state = .running → s.fetch = none → s.choose = some q → s.freeSlot = some k →
      (s.sq q).boundCq = some b →
      exec .fetchStart s = .next { s with
        slots := s.slots.write k (.fetching s.nextAge q b),
        cqs := s.cqs.write b { s.cqs.read b with reserved := (s.cqs.read b).reserved + 1 },
        lastServed := match (s.sq q).priority with
          | .admin => s.lastServed
          | .level n => s.lastServed.write n (some q),
        nextAge := s.nextAge + 1,
        fetch := some { sq := q, index := (s.sq q).head, slot := k },
        port := { s.port with requests := s.port.requests ++
          [{ requester := .fetch q, address := (s.sq q).base + BitVec.ofNat 64 (32 * (s.sq q).head), bytes := [],
             refused := false, discarded := false }] } })

/-- A failed fetch read breaks its queue with head and tail kept, frees the slot, returns the reservation and offers SQ_FETCH_ERROR to CQ0 (R132);
for SQ0 the engine then goes FATAL with cause ADMIN_FETCH_ERROR (R133).
The failure of a fetch read whose command was discarded breaks no queue and offers no notice, and a halt that waits for it ends (R136, R137, R177); that these rows end such a read is the model's reading (log entry 13).
A row with no read to fail, or of the other kind of queue, is no event (log entry 2). What CQ0 holds after the halt is the model's reading (log entry 18).
Everything is read on the settled state, the model's reading of R128 and R160 (log entry 1). -/
def Obligations.FailedFetchesBreakTheQueue : Prop :=
  (∀ (s : State) (f : FetchRecord) (age : Nat) (b : QueueId) (t : State),
    s.resetPin = false → s.settle.fetch = some f → s.settle.port.fails (.fetch f.sq) = true →
    s.settle.slot f.slot = .fetching age f.sq b →
    t = State.offerQueueNotice { s.settle with
      sqs := s.settle.sqs.write f.sq { s.settle.sqs.read f.sq with state := .broken },
      slots := s.settle.slots.write f.slot .free,
      cqs := s.settle.cqs.write b { s.settle.cqs.read b with reserved := (s.settle.cqs.read b).reserved - 1 },
      fetch := none,
      port := { s.settle.port with begun := s.settle.port.begun.eraseP fun x => x.requester == .fetch f.sq } }
      f.sq .sq .sqFetchError →
    (f.sq ≠ 0 → exec .fetchReadError s = .next t ∧ exec .adminFetchError s = .next s.settle) ∧
    (f.sq = 0 → exec .adminFetchError s = .next (t.enterFatal .adminFetchError) ∧ exec .fetchReadError s = .next s.settle)) ∧
  ∀ s : State, s.resetPin = false → (∀ f, s.settle.fetch = some f → s.settle.port.fails (.fetch f.sq) = false) →
    (∀ q, s.settle.port.hasDiscarded (.fetch q) = true → (∀ p, p ≠ q → s.settle.port.hasDiscarded (.fetch p) = false) →
      exec .fetchReadError s = .next (s.settle.endedUnused (.fetch q)) ∧
      exec .adminFetchError s = .next (s.settle.endedUnused (.fetch q))) ∧
    ((∀ q, s.settle.port.hasDiscarded (.fetch q) = false) →
      exec .fetchReadError s = .next s.settle ∧ exec .adminFetchError s = .next s.settle)

/-- The entry into FATAL sets state and cause, frees all slots with no completion, withdraws pending swaps and loads, clears every reserved count,
withdraws the requests that are not CQ writes, and then faults the running channels in the order C0 to C3 with cause ENGINE (R92, R110, R156, R162, R179).
That the commands are discarded before the notices are offered is the model's reading (log entry 11), and that the fetch record is cleared at once its choice (log entry 26). -/
def Obligations.FatalEntryDiscardsCommands : Prop :=
  ∀ (s t : State) (cause : EngineCause),
    t = { s with
      engine := { s.engine with state := .fatal, cause := cause },
      slots := Table.fill 16 .free, cancels := [], fetch := none,
      sqs := s.sqs.map fun x => match x.state with
        | .closing _ => { x with state := .closing none }
        | .closed | .opened | .broken => x,
      cqs := s.cqs.map fun x => { x with reserved := 0 },
      channels := s.channels.map fun ch => ch.withStandby (match ch.store.standby with
        | .loading l => (match l.prior with
          | .empty => .empty
          | .ready => .ready)
        | .swapPending _ => .ready
        | .empty => .empty
        | .ready => .ready),
      port := { requests := s.port.requests.filter fun x => isCqWrite x.requester,
                begun := s.port.begun.map fun x => if isCqWrite x.requester then x else { x with discarded := true } } } →
    s.enterFatal cause =
      (((t.faultEntry 0 .engine).faultEntry 1 .engine).faultEntry 2 .engine).faultEntry 3 .engine

/-! ### Completion queues and vectors (chapter 8) -/

/-- OPEN_CQ is checked in the order of R141 and opens the queue empty with pass marker 1; CLOSE_CQ is refused while a submission queue is bound to it,
a channel names it or holds a notice for it, or a record waits in its list (R142).
Everything is read on the settled state, the model's reading of R128 and R160 (log entry 1). -/
def Obligations.CompletionQueuesOpenAndClose : Prop :=
  (∀ (s u : State) (k : SlotId) (tag : BitVec 16) (queue vector threshold time : Byte) (size : BitVec 16) (base : Addr),
    s.Dispatches .openCq tag 0 k u →
    (queue = 0 ∨ 7 < queue.toNat →
      exec (.openCq tag queue vector threshold time size base) s = .next (u.complete k .invalidQueue 0)) ∧
    (∀ q : QueueId, q ≠ 0 → queue.toNat = q.val →
      exec (.openCq tag queue vector threshold time size base) s = .next
        (if (u.cq q).state ≠ .closed then u.complete k .invalidQueue 0
        else if ¬(4 ≤ size.toNat ∧ size.toNat ≤ 1024 ∧ base.toNat % 64 = 0 ∧ (vector.toNat ≤ 3 ∨ vector = 0xFF) ∧
            1 ≤ threshold.toNat ∧ threshold.toNat ≤ 64) then u.complete k .invalidField 0
        else if inOneWindow u.windows .write base.toNat (16 * size.toNat) = false then u.complete k .accessDenied 0
        else State.complete
          { u with
            cqs := u.cqs.write q { state := .opened, base := base, size := size.toNat, head := 0, tail := 0, pass := true,
                                   list := [], reserved := 0,
                                   vector := if vector = 0xFF then none else some (Fin.ofNat 4 vector.toNat),
                                   threshold := threshold.toNat, time := time.toNat },
            vectors := { u.vectors with unsignalled := u.vectors.unsignalled.write q 0, timers := u.vectors.timers.write q none } }
          k .success 0))) ∧
  (∀ (s u : State) (k : SlotId) (tag : BitVec 16) (queue : Byte), s.Dispatches .closeCq tag 0 k u →
    (queue = 0 ∨ 7 < queue.toNat → exec (.closeCq tag queue) s = .next (u.complete k .invalidQueue 0)) ∧
    (∀ q : QueueId, q ≠ 0 → queue.toNat = q.val →
      ((u.cq q).state = .closed → exec (.closeCq tag queue) s = .next (u.complete k .invalidQueue 0)) ∧
      ((u.cq q).state ≠ .closed →
        ((∃ i, (u.sq i).state ≠ .closed ∧ (u.sq i).boundCq = some q) ∨
          (∃ c, (u.channel c).settings.reportCq = some q ∨ ∃ h, (u.channel c).seq.held = some h ∧ h.cq = q) ∨
          (u.cq q).list ≠ []) →
        exec (.closeCq tag queue) s = .next (u.complete k .stateConflict 0)) ∧
      ((u.cq q).state ≠ .closed →
        (∀ i, (u.sq i).state ≠ .closed → (u.sq i).boundCq ≠ some q) →
        (∀ c, (u.channel c).settings.reportCq ≠ some q ∧ ∀ h, (u.channel c).seq.held = some h → h.cq ≠ q) →
        (u.cq q).list = [] →
        exec (.closeCq tag queue) s = .next (State.complete
          { u with
            cqs := u.cqs.write q { u.cqs.read q with state := .closed },
            vectors := { u.vectors with unsignalled := u.vectors.unsignalled.write q 0, timers := u.vectors.timers.write q none } }
          k .success 0))))

/-- The end of a ring write takes the record off the list, moves the tail and flips the pass marker where it returns to 0, has the vector unit count the record,
and hands the next write (R147, R151, R152). While HALTING only the list and the tail move, and the halt may end (R157, R177).
Everything is read on the settled state, the model's reading of R128 and R160 (log entry 1).
That this row ends the write during a halt is the model's choice (log entry 31), and what CQ0 holds after the halt its reading (log entry 18). -/
def Obligations.RingWritesMoveTheTail : Prop :=
  ∀ (s t : State) (q : QueueId) (r : CqRecord) (rest : List CqRecord),
    s.resetPin = false → s.settle.port.answers (.cqWrite q) = true → (s.settle.cq q).list = r :: rest →
    t = (s.settle.ended (.cqWrite q)).withCq q
      { s.settle.cq q with
        list := rest, tail := ((s.settle.cq q).tail + 1) % (s.settle.cq q).size,
        pass := if ((s.settle.cq q).tail + 1) % (s.settle.cq q).size = 0 then !(s.settle.cq q).pass else (s.settle.cq q).pass } →
    (s.engine.state = .halting →
      exec (.cqWriteDone q) s = .next (if t.port.begun = [] then t.haltEnded else t)) ∧
    (s.engine.state ≠ .halting → (s.settle.cq q).vector = none → exec (.cqWriteDone q) s = .next (t.writeHanded q)) ∧
    (∀ n, s.engine.state ≠ .halting → (s.settle.cq q).vector = some n →
      (((s.settle.cq q).threshold ≤ s.settle.vectors.unsignalled.read q + 1 ∨
          (∃ c x, r = .channelNotice c x) ∨ ∃ i x y, r = .queueNotice i x y) →
        exec (.cqWriteDone q) s = .next ((t.withVectors { s.settle.vectors with
          unsignalled := s.settle.vectors.unsignalled.write q 0, timers := s.settle.vectors.timers.write q none,
          pending := s.settle.vectors.pending ||| (1#4 <<< n.val) }).writeHanded q)) ∧
      (s.settle.vectors.unsignalled.read q + 1 < (s.settle.cq q).threshold →
        (∀ c x, r ≠ .channelNotice c x) → (∀ i x y, r ≠ .queueNotice i x y) →
        exec (.cqWriteDone q) s = .next ((t.withVectors { s.settle.vectors with
          unsignalled := s.settle.vectors.unsignalled.write q (s.settle.vectors.unsignalled.read q + 1),
          timers := s.settle.vectors.timers.write q
            (if s.settle.vectors.unsignalled.read q = 0 ∧ (s.settle.cq q).time ≠ 0 then some 0
             else s.settle.vectors.timers.read q) }).writeHanded q)))

/-- A failed ring write breaks the CQ: its list is discarded, its count and timer cleared, the notices held for it discarded (R153).
An I/O CQ then has CQ_WRITE_ERROR offered to CQ0; CQ0 takes a RUNNING engine FATAL and leaves a FATAL engine as it is (R154, R180). While HALTING it breaks nothing, and the halt may end with it (R157, R177).
Everything is read on the settled state, the model's reading of R128 and R160 (log entry 1).
That these rows end the write during a halt (log entry 31), and that the failed record then stays in the list until the halt ends (log entry 30), are the model's choice, and what CQ0 holds after the halt is its reading (log entry 18). -/
def Obligations.FailedRingWritesBreakTheQueue : Prop :=
  ∀ (s t : State) (q : QueueId), s.resetPin = false → s.settle.port.fails (.cqWrite q) = true →
    t = { s.settle with
      cqs := s.settle.cqs.write q { s.settle.cqs.read q with state := .broken, list := [] },
      vectors := { s.settle.vectors with
        unsignalled := s.settle.vectors.unsignalled.write q 0, timers := s.settle.vectors.timers.write q none },
      channels := s.settle.channels.map fun ch => match ch.seq.held with
        | some h => if h.cq = q then ch.withHeld none else ch
        | none => ch,
      port := { s.settle.port with begun := s.settle.port.begun.eraseP fun x => x.requester == .cqWrite q } } →
    (q ≠ 0 → s.engine.state ≠ .halting → exec (.cqWriteError q) s = .next (t.offerQueueNotice q .cq .cqWriteError)) ∧
    (q ≠ 0 → s.engine.state = .halting → exec (.cqWriteError q) s = .next (s.settle.endedUnused (.cqWrite q))) ∧
    (q = 0 → s.engine.state = .running → exec .adminWriteError s = .next (t.enterFatal .adminWriteError)) ∧
    (q = 0 → s.engine.state = .fatal → exec .adminWriteError s = .next t) ∧
    (q = 0 → s.engine.state = .halting → exec .adminWriteError s = .next (s.settle.endedUnused (.cqWrite 0)))

/-- A post write moves the tail of an OPEN queue within its size and is refused with BAD_POST otherwise (R125), and is ignored while HALTING (R137);
a release write moves the head of an OPEN CQ within the written records and is refused with BAD_RELEASE otherwise (R149), and room it frees is offered to held notices in channel order (R150).
Everything is read on the settled state, the model's reading of R128 and R160 (log entry 1). -/
def Obligations.PostsAndReleasesAreChecked : Prop :=
  ∀ (s : State) (q : QueueId) (x : BitVec 10), s.resetPin = false →
    (s.engine.state ≠ .halting → (s.settle.sq q).state = .opened → x.toNat < (s.settle.sq q).size →
      exec (.post q x) s = .next (s.settle.withSq q { s.settle.sq q with tail := x.toNat })) ∧
    (s.engine.state ≠ .halting → ((s.settle.sq q).state ≠ .opened ∨ (s.settle.sq q).size ≤ x.toNat) →
      exec (.post q x) s = .next (s.settle.offerQueueNotice q .sq .badPost)) ∧
    (s.engine.state = .halting → exec (.post q x) s = .next s.settle ∧ exec (.release q x) s = .next s.settle) ∧
    (s.engine.state ≠ .halting →
      ((s.settle.cq q).state ≠ .opened ∨ (s.settle.cq q).size ≤ x.toNat ∨
        ((s.settle.cq q).tail + (s.settle.cq q).size - (s.settle.cq q).head) % (s.settle.cq q).size <
          (x.toNat + (s.settle.cq q).size - (s.settle.cq q).head) % (s.settle.cq q).size) →
      exec (.release q x) s = .next (s.settle.offerQueueNotice q .cq .badRelease)) ∧
    (∀ t : State, s.engine.state ≠ .halting → (s.settle.cq q).state = .opened → x.toNat < (s.settle.cq q).size →
      (x.toNat + (s.settle.cq q).size - (s.settle.cq q).head) % (s.settle.cq q).size ≤
        ((s.settle.cq q).tail + (s.settle.cq q).size - (s.settle.cq q).head) % (s.settle.cq q).size →
      t = s.settle.withCq q { s.settle.cq q with head := x.toNat } →
      exec (.release q x) s = .next
        (if x.toNat = (s.settle.cq q).head then t
         else (((t.offerHeld q 0).offerHeld q 1).offerHeld q 2).offerHeld q 3))

/-- VECTOR_STATUS clears the pending flags written as 1 and VECTOR_MASK sets the four mask flags (R152); a coalescing timer that runs in a CQ with a vector
signals it when it expires, and a stopped one does nothing (R151, R152). An interrupt line follows its two flags, and VECTOR_STATUS reads the pending flags.
Everything is read on the settled state, the model's reading of R128 and R160 (log entry 1).
The expiry is the row itself, whatever the timer's count (log entry 23). -/
def Obligations.VectorsSignalAndClear : Prop :=
  ∀ (s : State) (bits : BitVec 4) (q : QueueId), s.resetPin = false →
    exec (.vectorStatus bits) s = .next { s.settle with
      vectors := { s.settle.vectors with pending := s.settle.vectors.pending &&& ~~~bits } } ∧
    exec (.vectorMask bits) s = .next { s.settle with vectors := { s.settle.vectors with mask := bits } } ∧
    (∀ n m, s.settle.vectors.timers.read q = some m → (s.settle.cq q).vector = some n →
      exec (.coalescingTimerExpiry q) s = .next { s.settle with
        vectors := { s.settle.vectors with
          pending := s.settle.vectors.pending ||| (1#4 <<< n.val),
          unsignalled := s.settle.vectors.unsignalled.write q 0, timers := s.settle.vectors.timers.write q none } }) ∧
    (s.settle.vectors.timers.read q = none → exec (.coalescingTimerExpiry q) s = .next s.settle) ∧
    (∀ i, i < 4 → s.interruptLines.getLsbD i = (s.vectors.pending.getLsbD i && !s.vectors.mask.getLsbD i)) ∧
    s.readRegister 0x24 = s.vectors.pending.setWidth 32

/-! ### Windows and the port (chapter 9) -/

/-- A range lies within a window when it passes no top of the address space and one enabled window grants its direction and covers it (R164).
SET_WINDOW is checked in the order of R168, and one that passes replaces the named window alone.
Everything is read on the settled state, the model's reading of R128 and R160 (log entry 1). -/
def Obligations.SetWindowIsChecked : Prop :=
  (∀ (ws : Table 4 Window) (d : Direction) (start len : Nat),
    inOneWindow ws d start len = true ↔
      start + len ≤ 2 ^ 64 ∧ ∃ i : Fin 4, (ws.read i).length ≠ 0 ∧
        (match d with
         | .read => (ws.read i).grantsRead = true
         | .write => (ws.read i).grantsWrite = true) ∧
        (ws.read i).base.toNat ≤ start ∧ start + len ≤ (ws.read i).base.toNat + (ws.read i).length) ∧
  ∀ (s u : State) (k : SlotId) (tag : BitVec 16) (number rights : Byte) (length : BitVec 32) (base : Addr),
    s.Dispatches .setWindow tag 0 k u →
    ((3 < number.toNat ∨ (length ≠ 0 ∧
        (length.toNat % 64 ≠ 0 ∨ 4294967232 < length.toNat ∨ base.toNat % 64 ≠ 0 ∨ 2 ^ 64 < base.toNat + length.toNat ∨
          rights = 0 ∨ 3 < rights.toNat))) →
      exec (.setWindow tag number rights length base) s = .next (u.complete k .invalidField 0)) ∧
    (∀ (n : Fin 4) (w : Window), number.toNat = n.val →
      (length = 0 → w = { base := 0, length := 0, grantsRead := false, grantsWrite := false }) →
      (length ≠ 0 → length.toNat % 64 = 0 ∧ length.toNat ≤ 4294967232 ∧ base.toNat % 64 = 0 ∧
        base.toNat + length.toNat ≤ 2 ^ 64 ∧ rights ≠ 0 ∧ rights.toNat ≤ 3 ∧
        w = { base := base, length := length.toNat, grantsRead := rights.getLsbD 0, grantsWrite := rights.getLsbD 1 }) →
      (((∃ j, (u.slot j).movesData = true) ∨
          (∃ q : QueueId, q ≠ 0 ∧
            (((u.sq q).state = .opened ∧
                inOneWindow (u.windows.write n w) .read (u.sq q).base.toNat (32 * (u.sq q).size) = false) ∨
             ((u.cq q).state = .opened ∧
                inOneWindow (u.windows.write n w) .write (u.cq q).base.toNat (16 * (u.cq q).size) = false)))) →
        exec (.setWindow tag number rights length base) s = .next (u.complete k .stateConflict 0)) ∧
      ((∀ j, (u.slot j).movesData = false) →
        (∀ q : QueueId, q ≠ 0 →
          ((u.sq q).state = .opened →
            inOneWindow (u.windows.write n w) .read (u.sq q).base.toNat (32 * (u.sq q).size) = true) ∧
          ((u.cq q).state = .opened →
            inOneWindow (u.windows.write n w) .write (u.cq q).base.toNat (16 * (u.cq q).size) = true)) →
        exec (.setWindow tag number rights length base) s = .next
          (State.complete { u with windows := u.windows.write n w } k .success 0)))

/-- While fewer than four transactions are begun the port begins the oldest of its request list, which carries its bytes and the window checker's answer from then on,
the admin rings being exempt (R160, R165, R167). A begun transaction of a discarded command ends with nothing but the end of a halt that waits for it, or the first read of a load that waits for it (R162, R177, R10, R15).
A fetch read and a snapshot write move 32 bytes, a load read and a CQ write 16 (R159).
Everything is read on the settled state, the model's reading of R128 and R160 (log entry 1): what FETCH_START and then four PORT_BEGIN_TRANSACTION leave, with four begun or no request waiting.
That an ending discarded transaction is named by its requester is the model's reading (log entry 13), and so is that the row of a requester with none is no event (log entry 2).
That a CQ write during a halt is none of these is the model's choice (log entry 31), and what CQ0 holds after a halt its reading (log entry 18). -/
def Obligations.TransactionsBeginAndEnd : Prop :=
  (∀ (p : Port) (r : Requester),
    (p.holds r = true ↔ ∃ t, (t ∈ p.requests ∨ t ∈ p.begun) ∧ t.requester = r) ∧
    (p.answers r = true ↔ ∃ t, p.begunOf r = some t ∧ t.refused = false ∧ t.discarded = false) ∧
    (p.fails r = true ↔ ∃ t, p.begunOf r = some t ∧ t.discarded = false) ∧
    (p.hasDiscarded r = true ↔ ∃ t, p.begunOf r = some t ∧ t.discarded = true) ∧
    (∀ t, p.begunOf r = some t → t ∈ p.begun ∧ t.requester = r) ∧
    (p.begunOf r = none ↔ ∀ t ∈ p.begun, t.requester ≠ r)) ∧
  (∀ s t₀ t₁ t₂ t₃ t₄ : State, s.resetPin = false →
    exec .fetchStart s = .next t₀ → exec .portBeginTransaction t₀ = .next t₁ → exec .portBeginTransaction t₁ = .next t₂ →
    exec .portBeginTransaction t₂ = .next t₃ → exec .portBeginTransaction t₃ = .next t₄ →
    s.settle = t₄ ∧ (t₄.port.requests = [] ∨ 4 ≤ t₄.port.begun.length)) ∧
  (∀ (s : State), s.resetPin = false →
    (s.port.requests = [] ∨ 4 ≤ s.port.begun.length → exec .portBeginTransaction s = .next s) ∧
    (∀ t rest, s.port.requests = t :: rest → s.port.begun.length < 4 →
      ∃ bytes refused, exec .portBeginTransaction s = .next { s with
          port := { requests := rest, begun := s.port.begun ++ [{ t with bytes := bytes, refused := refused }] } } ∧
        (refused = true ↔ match t.requester with
          | .fetch q => q ≠ 0 ∧ inOneWindow s.windows .read t.address.toNat 32 = false
          | .load _ => inOneWindow s.windows .read t.address.toNat 16 = false
          | .snapshot _ => inOneWindow s.windows .write t.address.toNat 32 = false
          | .cqWrite q => q ≠ 0 ∧ inOneWindow s.windows .write t.address.toNat 16 = false) ∧
        (∀ k w c, t.requester = .snapshot k → s.slot k = .working w → channelOf w.channel = some c →
          bytes = (s.channel c).snapshot) ∧
        (∀ x, t.requester = .fetch x → bytes = []) ∧ (∀ x, t.requester = .load x → bytes = []) ∧
        (∀ q r l, t.requester = .cqWrite q → (s.cq q).list = r :: l → bytes = r.toBytes (s.cq q).pass))) ∧
  (∀ (s : State) (r : Requester), s.resetPin = false →
    (s.settle.port.hasDiscarded r = true →
      (∀ c l, r = .load c → (s.settle.channel c).store.standby ≠ .loading l) →
      exec (.discardedTransactionEnd r) s = .next (s.settle.endedUnused r)) ∧
    (s.settle.port.hasDiscarded r = false → exec (.discardedTransactionEnd r) s = .next s.settle) ∧
    (∀ c l, r = .load c → s.settle.port.hasDiscarded r = true → s.engine.state ≠ .halting →
      (s.settle.channel c).store.standby = .loading l → (s.settle.ended r).port.holds r = false →
      exec (.discardedTransactionEnd r) s = .next
        ((s.settle.ended r).handed r (l.source + BitVec.ofNat 64 (16 * l.buffer.length)))))

/-! ### The engine (chapter 10) -/

/-- RUN written as 1 in HALTED checks the admin registers (R173): it sets the cause ADMIN_CONFIG when they fail, and opens SQ0 and CQ0 and makes the engine RUNNING when they pass (R121, R140, R174).
In the other states it has no effect (R172).
Everything is read on the settled state, the model's reading of R128 and R160 (log entry 1). -/
def Obligations.EnableChecksTheAdminRings : Prop :=
  ∀ (s : State) (e : Engine), s.resetPin = false → s.settle.engine = e →
    (e.state ≠ .halted → exec .enable s = .next s.settle) ∧
    (e.state = .halted →
      exec .enable s = .next
        (if 4 ≤ e.adminSqSize.toNat ∧ e.adminSqSize.toNat ≤ 256 ∧ 4 ≤ e.adminCqSize.toNat ∧ e.adminCqSize.toNat ≤ 256 ∧
            e.adminSqBase.toNat % 64 = 0 ∧ e.adminCqBase.toNat % 64 = 0 ∧
            e.adminSqBase.toNat + 32 * e.adminSqSize.toNat ≤ 2 ^ 64 ∧ e.adminCqBase.toNat + 16 * e.adminCqSize.toNat ≤ 2 ^ 64 then
          { s.settle with
            engine := { e with state := .running, cause := .none },
            sqs := s.settle.sqs.write 0 { state := .opened, base := e.adminSqBase, size := e.adminSqSize.toNat, head := 0,
                                          tail := 0, boundCq := some 0, priority := .admin },
            cqs := s.settle.cqs.write 0 { state := .opened, base := e.adminCqBase, size := e.adminCqSize.toNat, head := 0,
                                          tail := 0, pass := true, list := [], reserved := 0, vector := some 0,
                                          threshold := 1, time := 0 },
            vectors := { s.settle.vectors with
              unsignalled := s.settle.vectors.unsignalled.write 0 0, timers := s.settle.vectors.timers.write 0 none } }
        else { s.settle with engine := { e with cause := .adminConfig } }))

/-- The admin ring registers take a written value in HALTED alone and read it back (R175); ENGINE_CTRL, ENGINE_STATUS, VECTOR_STATUS and VECTOR_MASK read the state (R171, R172, R188), the engine's items by their codes (R184);
a write of an offset that holds no written register changes nothing (R188).
POST, RELEASE and the offsets 0x2C to 0x3C read 0 (R183, R188), and so do the bits outside the fields of the others (R188).
Everything is read on the settled state, the model's reading of R128 and R160 (log entry 1). -/
def Obligations.RegistersAreWrittenAndRead : Prop :=
  ∀ (s : State) (value : BitVec 32), s.resetPin = false →
    (∀ r, s.settle.engine.state ≠ .halted → exec (.adminRegisterWrite r value) s = .next s.settle) ∧
    (∀ r, s.settle.engine.state = .halted → ∃ e : Engine,
      exec (.adminRegisterWrite r value) s = .next { s.settle with engine := e } ∧
      e.state = .halted ∧ e.cause = s.settle.engine.cause ∧ e.lastReset = s.settle.engine.lastReset ∧
      State.readRegister { s.settle with engine := e } 0x08 =
        (if r = .sqBaseLow then value else s.settle.readRegister 0x08) ∧
      State.readRegister { s.settle with engine := e } 0x0C =
        (if r = .sqBaseHigh then value else s.settle.readRegister 0x0C) ∧
      State.readRegister { s.settle with engine := e } 0x10 =
        (if r = .cqBaseLow then value else s.settle.readRegister 0x10) ∧
      State.readRegister { s.settle with engine := e } 0x14 =
        (if r = .cqBaseHigh then value else s.settle.readRegister 0x14) ∧
      State.readRegister { s.settle with engine := e } 0x18 =
        (if r = .sizes then value &&& 0x01FF01FF else s.settle.readRegister 0x18)) ∧
    (∀ offset, isIgnoredOffset offset = true → exec (.registerWriteIgnored offset value) s = .next s.settle) ∧
    (s.readRegister 0x00 = 1 ↔ s.engine.state = .running ∨ s.engine.state = .fatal) ∧
    (s.readRegister 0x00 = 0 ↔ s.engine.state = .halted ∨ s.engine.state = .halting) ∧
    (s.readRegister 0x04).extractLsb' 0 8 = BitVec.ofNat 8 s.engine.state.toCode ∧
    (s.readRegister 0x04).extractLsb' 8 8 = BitVec.ofNat 8 s.engine.cause.toCode ∧
    (s.readRegister 0x04).extractLsb' 16 8 = BitVec.ofNat 8 s.engine.lastReset.toCode ∧
    ([EngineState.halted, .running, .halting, .fatal].map EngineState.toCode = [0, 1, 2, 3] ∧
      [EngineCause.none, .adminConfig, .adminFetchError, .adminWriteError].map EngineCause.toCode = [0, 1, 2, 3] ∧
      [LastReset.powerOn, .soft].map LastReset.toCode = [0, 1]) ∧
    (s.readRegister 0x04).extractLsb' 24 8 = 0 ∧ s.readRegister 0x18 &&& 0x01FF01FF = s.readRegister 0x18 ∧
    s.readRegister 0x24 = s.vectors.pending.setWidth 32 ∧ s.readRegister 0x28 = s.vectors.mask.setWidth 32 ∧
    s.readRegister 0x1C = 0 ∧ s.readRegister 0x20 = 0 ∧ ∀ offset : BitVec 6, 0x2C ≤ offset.toNat → s.readRegister offset = 0

/-- RUN written as 0 in RUNNING or FATAL begins a halt: commands discarded, channels IDLE, lists cut to the record being written, reservations, timers and requests cleared (R176, R10, R23, R98, R110, R157, R162);
it ends in the event that empties the begun set, with every queue CLOSED and the engine HALTED (R137, R157, R177). In HALTED and HALTING it has no effect (R172).
Everything is read on the settled state, the model's reading of R128 and R160 (log entry 1).
What HALT_END stands for, and that it is no event otherwise, is the model's reading (log entries 2 and 12), and so are the vector, threshold and time CQ0 holds after a halt (log entry 18).
That the fetch record is cleared at the halt's start is the model's choice (log entry 26). -/
def Obligations.HaltStopsTheEngine : Prop :=
  ∀ (s t : State), s.resetPin = false →
    t = { s.settle with
      engine := { s.settle.engine with state := .halting },
      slots := Table.fill 16 .free, cancels := [], fetch := none,
      sqs := s.settle.sqs.map fun x => match x.state with
        | .closing _ => { x with state := .closing none }
        | .closed | .opened | .broken => x,
      cqs := Vector.ofFn fun q => { s.settle.cqs.read q with
        reserved := 0,
        list := if s.settle.port.begun.any fun b => b.requester == .cqWrite q then (s.settle.cqs.read q).list.take 1 else [] },
      vectors := { s.settle.vectors with timers := Table.fill 8 none },
      channels := s.settle.channels.map fun ch => { ch.resting .idle with
        est := { (ch.resting .idle).est with forcedCount := 0 },
        seq := { (ch.resting .idle).seq with loopOwner := none, loopCounter := 0, held := none, lost := 0 },
        store := { ch.store with standby := match ch.store.standby with
          | .loading l => (match l.prior with
            | .empty => .empty
            | .ready => .ready)
          | .swapPending _ => .ready
          | .empty => .empty
          | .ready => .ready } },
      port := { requests := [],
                begun := s.settle.port.begun.map fun x => if isCqWrite x.requester then x else { x with discarded := true } } } →
    (s.engine.state = .running ∨ s.engine.state = .fatal →
      exec .halt s = .next (if s.settle.port.begun = [] then t.haltEnded else t)) ∧
    (s.engine.state = .halted ∨ s.engine.state = .halting → exec .halt s = .next s.settle) ∧
    (s.engine.state = .halting → s.settle.port.begun.length ≤ 1 →
      exec .haltEnd s = .next (State.haltEnded { s.settle with port := { s.settle.port with begun := [] } })) ∧
    (s.engine.state ≠ .halting ∨ 1 < s.settle.port.begun.length → exec .haltEnd s = .next s.settle)
end

