-- ==== Sys2Proof/Laws/State.lean ====
section
/-! SUPPORT. The named updates of State: what each leaves and what it writes, one lemma per field, so that no proof unfolds a record update. -/

namespace Sys2Proof.Machine

variable (s : State)

/-! ### withChannel -/

@[simp] theorem State.withChannel_pending (c : ChannelId) (ch : Channel) : (s.withChannel c ch).pending = s.pending := rfl
@[simp] theorem State.withChannel_choice (c : ChannelId) (ch : Channel) : (s.withChannel c ch).choice = s.choice := rfl
@[simp] theorem State.withChannel_resetPin (c : ChannelId) (ch : Channel) : (s.withChannel c ch).resetPin = s.resetPin := rfl
@[simp] theorem State.withChannel_engine (c : ChannelId) (ch : Channel) : (s.withChannel c ch).engine = s.engine := rfl
@[simp] theorem State.withChannel_sqs (c : ChannelId) (ch : Channel) : (s.withChannel c ch).sqs = s.sqs := rfl
@[simp] theorem State.withChannel_fetch (c : ChannelId) (ch : Channel) : (s.withChannel c ch).fetch = s.fetch := rfl
@[simp] theorem State.withChannel_lastServed (c : ChannelId) (ch : Channel) : (s.withChannel c ch).lastServed = s.lastServed := rfl
@[simp] theorem State.withChannel_slots (c : ChannelId) (ch : Channel) : (s.withChannel c ch).slots = s.slots := rfl
@[simp] theorem State.withChannel_nextAge (c : ChannelId) (ch : Channel) : (s.withChannel c ch).nextAge = s.nextAge := rfl
@[simp] theorem State.withChannel_cancels (c : ChannelId) (ch : Channel) : (s.withChannel c ch).cancels = s.cancels := rfl
@[simp] theorem State.withChannel_cqs (c : ChannelId) (ch : Channel) : (s.withChannel c ch).cqs = s.cqs := rfl
@[simp] theorem State.withChannel_vectors (c : ChannelId) (ch : Channel) : (s.withChannel c ch).vectors = s.vectors := rfl
@[simp] theorem State.withChannel_port (c : ChannelId) (ch : Channel) : (s.withChannel c ch).port = s.port := rfl
@[simp] theorem State.withChannel_windows (c : ChannelId) (ch : Channel) : (s.withChannel c ch).windows = s.windows := rfl
@[simp] theorem State.withChannel_channel_self (c : ChannelId) (ch : Channel) : (s.withChannel c ch).channel c = ch :=
  Table.read_write_self _ _ _
theorem State.withChannel_channel (c : ChannelId) (ch : Channel) (j : ChannelId) :
    (s.withChannel c ch).channel j = if j = c then ch else s.channel j :=
  Table.read_write _ _ _ _
@[simp] theorem State.withChannel_channel_ne (c : ChannelId) (ch : Channel) (j : ChannelId) (h : j ≠ c) :
    (s.withChannel c ch).channel j = s.channel j :=
  Table.read_write_ne _ _ _ _ h
@[simp] theorem State.withChannel_sq (c : ChannelId) (ch : Channel) (j : QueueId) : (s.withChannel c ch).sq j = s.sq j := rfl
@[simp] theorem State.withChannel_cq (c : ChannelId) (ch : Channel) (j : QueueId) : (s.withChannel c ch).cq j = s.cq j := rfl
@[simp] theorem State.withChannel_slot (c : ChannelId) (ch : Channel) (j : SlotId) : (s.withChannel c ch).slot j = s.slot j := rfl

/-! ### withSq -/

@[simp] theorem State.withSq_pending (q : QueueId) (x : SqContext) : (s.withSq q x).pending = s.pending := rfl
@[simp] theorem State.withSq_choice (q : QueueId) (x : SqContext) : (s.withSq q x).choice = s.choice := rfl
@[simp] theorem State.withSq_resetPin (q : QueueId) (x : SqContext) : (s.withSq q x).resetPin = s.resetPin := rfl
@[simp] theorem State.withSq_engine (q : QueueId) (x : SqContext) : (s.withSq q x).engine = s.engine := rfl
@[simp] theorem State.withSq_fetch (q : QueueId) (x : SqContext) : (s.withSq q x).fetch = s.fetch := rfl
@[simp] theorem State.withSq_lastServed (q : QueueId) (x : SqContext) : (s.withSq q x).lastServed = s.lastServed := rfl
@[simp] theorem State.withSq_slots (q : QueueId) (x : SqContext) : (s.withSq q x).slots = s.slots := rfl
@[simp] theorem State.withSq_nextAge (q : QueueId) (x : SqContext) : (s.withSq q x).nextAge = s.nextAge := rfl
@[simp] theorem State.withSq_cancels (q : QueueId) (x : SqContext) : (s.withSq q x).cancels = s.cancels := rfl
@[simp] theorem State.withSq_cqs (q : QueueId) (x : SqContext) : (s.withSq q x).cqs = s.cqs := rfl
@[simp] theorem State.withSq_vectors (q : QueueId) (x : SqContext) : (s.withSq q x).vectors = s.vectors := rfl
@[simp] theorem State.withSq_port (q : QueueId) (x : SqContext) : (s.withSq q x).port = s.port := rfl
@[simp] theorem State.withSq_windows (q : QueueId) (x : SqContext) : (s.withSq q x).windows = s.windows := rfl
@[simp] theorem State.withSq_channels (q : QueueId) (x : SqContext) : (s.withSq q x).channels = s.channels := rfl
@[simp] theorem State.withSq_sq_self (q : QueueId) (x : SqContext) : (s.withSq q x).sq q = x :=
  Table.read_write_self _ _ _
theorem State.withSq_sq (q : QueueId) (x : SqContext) (j : QueueId) :
    (s.withSq q x).sq j = if j = q then x else s.sq j :=
  Table.read_write _ _ _ _
@[simp] theorem State.withSq_sq_ne (q : QueueId) (x : SqContext) (j : QueueId) (h : j ≠ q) :
    (s.withSq q x).sq j = s.sq j :=
  Table.read_write_ne _ _ _ _ h
@[simp] theorem State.withSq_channel (q : QueueId) (x : SqContext) (j : ChannelId) : (s.withSq q x).channel j = s.channel j := rfl
@[simp] theorem State.withSq_cq (q : QueueId) (x : SqContext) (j : QueueId) : (s.withSq q x).cq j = s.cq j := rfl
@[simp] theorem State.withSq_slot (q : QueueId) (x : SqContext) (j : SlotId) : (s.withSq q x).slot j = s.slot j := rfl

/-! ### withCq -/

@[simp] theorem State.withCq_pending (q : QueueId) (x : CqContext) : (s.withCq q x).pending = s.pending := rfl
@[simp] theorem State.withCq_choice (q : QueueId) (x : CqContext) : (s.withCq q x).choice = s.choice := rfl
@[simp] theorem State.withCq_resetPin (q : QueueId) (x : CqContext) : (s.withCq q x).resetPin = s.resetPin := rfl
@[simp] theorem State.withCq_engine (q : QueueId) (x : CqContext) : (s.withCq q x).engine = s.engine := rfl
@[simp] theorem State.withCq_sqs (q : QueueId) (x : CqContext) : (s.withCq q x).sqs = s.sqs := rfl
@[simp] theorem State.withCq_fetch (q : QueueId) (x : CqContext) : (s.withCq q x).fetch = s.fetch := rfl
@[simp] theorem State.withCq_lastServed (q : QueueId) (x : CqContext) : (s.withCq q x).lastServed = s.lastServed := rfl
@[simp] theorem State.withCq_slots (q : QueueId) (x : CqContext) : (s.withCq q x).slots = s.slots := rfl
@[simp] theorem State.withCq_nextAge (q : QueueId) (x : CqContext) : (s.withCq q x).nextAge = s.nextAge := rfl
@[simp] theorem State.withCq_cancels (q : QueueId) (x : CqContext) : (s.withCq q x).cancels = s.cancels := rfl
@[simp] theorem State.withCq_vectors (q : QueueId) (x : CqContext) : (s.withCq q x).vectors = s.vectors := rfl
@[simp] theorem State.withCq_port (q : QueueId) (x : CqContext) : (s.withCq q x).port = s.port := rfl
@[simp] theorem State.withCq_windows (q : QueueId) (x : CqContext) : (s.withCq q x).windows = s.windows := rfl
@[simp] theorem State.withCq_channels (q : QueueId) (x : CqContext) : (s.withCq q x).channels = s.channels := rfl
@[simp] theorem State.withCq_cq_self (q : QueueId) (x : CqContext) : (s.withCq q x).cq q = x :=
  Table.read_write_self _ _ _
theorem State.withCq_cq (q : QueueId) (x : CqContext) (j : QueueId) :
    (s.withCq q x).cq j = if j = q then x else s.cq j :=
  Table.read_write _ _ _ _
@[simp] theorem State.withCq_cq_ne (q : QueueId) (x : CqContext) (j : QueueId) (h : j ≠ q) :
    (s.withCq q x).cq j = s.cq j :=
  Table.read_write_ne _ _ _ _ h
@[simp] theorem State.withCq_channel (q : QueueId) (x : CqContext) (j : ChannelId) : (s.withCq q x).channel j = s.channel j := rfl
@[simp] theorem State.withCq_sq (q : QueueId) (x : CqContext) (j : QueueId) : (s.withCq q x).sq j = s.sq j := rfl
@[simp] theorem State.withCq_slot (q : QueueId) (x : CqContext) (j : SlotId) : (s.withCq q x).slot j = s.slot j := rfl

/-! ### withSlot -/

@[simp] theorem State.withSlot_pending (k : SlotId) (x : Slot) : (s.withSlot k x).pending = s.pending := rfl
@[simp] theorem State.withSlot_choice (k : SlotId) (x : Slot) : (s.withSlot k x).choice = s.choice := rfl
@[simp] theorem State.withSlot_resetPin (k : SlotId) (x : Slot) : (s.withSlot k x).resetPin = s.resetPin := rfl
@[simp] theorem State.withSlot_engine (k : SlotId) (x : Slot) : (s.withSlot k x).engine = s.engine := rfl
@[simp] theorem State.withSlot_sqs (k : SlotId) (x : Slot) : (s.withSlot k x).sqs = s.sqs := rfl
@[simp] theorem State.withSlot_fetch (k : SlotId) (x : Slot) : (s.withSlot k x).fetch = s.fetch := rfl
@[simp] theorem State.withSlot_lastServed (k : SlotId) (x : Slot) : (s.withSlot k x).lastServed = s.lastServed := rfl
@[simp] theorem State.withSlot_nextAge (k : SlotId) (x : Slot) : (s.withSlot k x).nextAge = s.nextAge := rfl
@[simp] theorem State.withSlot_cancels (k : SlotId) (x : Slot) : (s.withSlot k x).cancels = s.cancels := rfl
@[simp] theorem State.withSlot_cqs (k : SlotId) (x : Slot) : (s.withSlot k x).cqs = s.cqs := rfl
@[simp] theorem State.withSlot_vectors (k : SlotId) (x : Slot) : (s.withSlot k x).vectors = s.vectors := rfl
@[simp] theorem State.withSlot_port (k : SlotId) (x : Slot) : (s.withSlot k x).port = s.port := rfl
@[simp] theorem State.withSlot_windows (k : SlotId) (x : Slot) : (s.withSlot k x).windows = s.windows := rfl
@[simp] theorem State.withSlot_channels (k : SlotId) (x : Slot) : (s.withSlot k x).channels = s.channels := rfl
@[simp] theorem State.withSlot_slot_self (k : SlotId) (x : Slot) : (s.withSlot k x).slot k = x :=
  Table.read_write_self _ _ _
theorem State.withSlot_slot (k : SlotId) (x : Slot) (j : SlotId) :
    (s.withSlot k x).slot j = if j = k then x else s.slot j :=
  Table.read_write _ _ _ _
@[simp] theorem State.withSlot_slot_ne (k : SlotId) (x : Slot) (j : SlotId) (h : j ≠ k) :
    (s.withSlot k x).slot j = s.slot j :=
  Table.read_write_ne _ _ _ _ h
@[simp] theorem State.withSlot_channel (k : SlotId) (x : Slot) (j : ChannelId) : (s.withSlot k x).channel j = s.channel j := rfl
@[simp] theorem State.withSlot_sq (k : SlotId) (x : Slot) (j : QueueId) : (s.withSlot k x).sq j = s.sq j := rfl
@[simp] theorem State.withSlot_cq (k : SlotId) (x : Slot) (j : QueueId) : (s.withSlot k x).cq j = s.cq j := rfl

/-! ### withPort -/

@[simp] theorem State.withPort_pending (p : Port) : (s.withPort p).pending = s.pending := rfl
@[simp] theorem State.withPort_choice (p : Port) : (s.withPort p).choice = s.choice := rfl
@[simp] theorem State.withPort_resetPin (p : Port) : (s.withPort p).resetPin = s.resetPin := rfl
@[simp] theorem State.withPort_engine (p : Port) : (s.withPort p).engine = s.engine := rfl
@[simp] theorem State.withPort_sqs (p : Port) : (s.withPort p).sqs = s.sqs := rfl
@[simp] theorem State.withPort_fetch (p : Port) : (s.withPort p).fetch = s.fetch := rfl
@[simp] theorem State.withPort_lastServed (p : Port) : (s.withPort p).lastServed = s.lastServed := rfl
@[simp] theorem State.withPort_slots (p : Port) : (s.withPort p).slots = s.slots := rfl
@[simp] theorem State.withPort_nextAge (p : Port) : (s.withPort p).nextAge = s.nextAge := rfl
@[simp] theorem State.withPort_cancels (p : Port) : (s.withPort p).cancels = s.cancels := rfl
@[simp] theorem State.withPort_cqs (p : Port) : (s.withPort p).cqs = s.cqs := rfl
@[simp] theorem State.withPort_vectors (p : Port) : (s.withPort p).vectors = s.vectors := rfl
@[simp] theorem State.withPort_windows (p : Port) : (s.withPort p).windows = s.windows := rfl
@[simp] theorem State.withPort_channels (p : Port) : (s.withPort p).channels = s.channels := rfl
@[simp] theorem State.withPort_port (p : Port) : (s.withPort p).port = p := rfl
@[simp] theorem State.withPort_channel (p : Port) (j : ChannelId) : (s.withPort p).channel j = s.channel j := rfl
@[simp] theorem State.withPort_sq (p : Port) (j : QueueId) : (s.withPort p).sq j = s.sq j := rfl
@[simp] theorem State.withPort_cq (p : Port) (j : QueueId) : (s.withPort p).cq j = s.cq j := rfl
@[simp] theorem State.withPort_slot (p : Port) (j : SlotId) : (s.withPort p).slot j = s.slot j := rfl

/-! ### withVectors -/

@[simp] theorem State.withVectors_pending (v : VectorUnit) : (s.withVectors v).pending = s.pending := rfl
@[simp] theorem State.withVectors_choice (v : VectorUnit) : (s.withVectors v).choice = s.choice := rfl
@[simp] theorem State.withVectors_resetPin (v : VectorUnit) : (s.withVectors v).resetPin = s.resetPin := rfl
@[simp] theorem State.withVectors_engine (v : VectorUnit) : (s.withVectors v).engine = s.engine := rfl
@[simp] theorem State.withVectors_sqs (v : VectorUnit) : (s.withVectors v).sqs = s.sqs := rfl
@[simp] theorem State.withVectors_fetch (v : VectorUnit) : (s.withVectors v).fetch = s.fetch := rfl
@[simp] theorem State.withVectors_lastServed (v : VectorUnit) : (s.withVectors v).lastServed = s.lastServed := rfl
@[simp] theorem State.withVectors_slots (v : VectorUnit) : (s.withVectors v).slots = s.slots := rfl
@[simp] theorem State.withVectors_nextAge (v : VectorUnit) : (s.withVectors v).nextAge = s.nextAge := rfl
@[simp] theorem State.withVectors_cancels (v : VectorUnit) : (s.withVectors v).cancels = s.cancels := rfl
@[simp] theorem State.withVectors_cqs (v : VectorUnit) : (s.withVectors v).cqs = s.cqs := rfl
@[simp] theorem State.withVectors_port (v : VectorUnit) : (s.withVectors v).port = s.port := rfl
@[simp] theorem State.withVectors_windows (v : VectorUnit) : (s.withVectors v).windows = s.windows := rfl
@[simp] theorem State.withVectors_channels (v : VectorUnit) : (s.withVectors v).channels = s.channels := rfl
@[simp] theorem State.withVectors_vectors (v : VectorUnit) : (s.withVectors v).vectors = v := rfl
@[simp] theorem State.withVectors_channel (v : VectorUnit) (j : ChannelId) : (s.withVectors v).channel j = s.channel j := rfl
@[simp] theorem State.withVectors_sq (v : VectorUnit) (j : QueueId) : (s.withVectors v).sq j = s.sq j := rfl
@[simp] theorem State.withVectors_cq (v : VectorUnit) (j : QueueId) : (s.withVectors v).cq j = s.cq j := rfl
@[simp] theorem State.withVectors_slot (v : VectorUnit) (j : SlotId) : (s.withVectors v).slot j = s.slot j := rfl

end Sys2Proof.Machine
end

