-- ==== Sys2Proof/Laws/Ops.lean ====
section
/-! SUPPORT. What each shared operation can do, said once: which fields of State it may change (the named new values), and what it leaves of the tables it does change. -/

namespace Sys2Proof.Machine

variable (s : State)

/-! ### The port -/

theorem State.hand_frame (r : Requester) (a : Addr) : ∃ p, s.hand r a = { s with port := p } := ⟨_, rfl⟩

theorem State.dropBegun_frame (r : Requester) : ∃ p, s.dropBegun r = { s with port := p } := ⟨_, rfl⟩

theorem State.handCqWrite_frame (q : QueueId) : ∃ p, s.handCqWrite q = { s with port := p } := by
  unfold State.handCqWrite
  split
  · exact ⟨_, rfl⟩
  · exact ⟨s.port, rfl⟩

theorem State.beginTransaction_frame : ∃ p, s.beginTransaction = { s with port := p } := by
  unfold State.beginTransaction
  split
  · exact ⟨s.port, rfl⟩
  · split
    · exact ⟨_, rfl⟩
    · exact ⟨s.port, rfl⟩

theorem State.issueLoadRead_frame (c : ChannelId) : ∃ p, s.issueLoadRead c = { s with port := p } := by
  unfold State.issueLoadRead
  split
  · split
    · exact ⟨s.port, rfl⟩
    · exact ⟨_, rfl⟩
  all_goals exact ⟨s.port, rfl⟩

/-! ### The completion writer -/

theorem State.appendRecord_frame (q : QueueId) (r : CqRecord) :
    ∃ x p, s.appendRecord q r = { s with cqs := x, port := p } := by
  unfold State.appendRecord
  obtain ⟨p, h⟩ := State.handCqWrite_frame (s.withCq q { s.cq q with list := (s.cq q).list ++ [r] }) q
  exact ⟨_, p, h⟩

theorem State.offerQueueNotice_frame (q : QueueId) (k : QueueKind) (n : NoticeCause) :
    ∃ x p, s.offerQueueNotice q k n = { s with cqs := x, port := p } := by
  unfold State.offerQueueNotice
  split
  · exact State.appendRecord_frame _ _ _
  · exact ⟨s.cqs, s.port, rfl⟩

theorem State.takeCompletion_frame (w : Working) (t : Status) (d : Nat) :
    ∃ x p, s.takeCompletion w t d = { s with cqs := x, port := p } := by
  unfold State.takeCompletion
  dsimp only
  split
  · obtain ⟨x, p, h⟩ := State.appendRecord_frame
      (s.withCq w.cq { s.cq w.cq with reserved := (s.cq w.cq).reserved - 1 }) w.cq
      (.commandDone w.tag w.sq (s.sq w.sq).head t d)
    exact ⟨x, p, h⟩
  · exact ⟨_, s.port, rfl⟩

theorem State.offerReport_frame (c : ChannelId) (r : Report) :
    ∃ x p ch, s.offerReport c r = { s with cqs := x, port := p, channels := ch } := by
  unfold State.offerReport
  split
  · exact ⟨s.cqs, s.port, s.channels, rfl⟩
  · split
    · rename_i q _ _
      obtain ⟨x, p, h⟩ := State.appendRecord_frame (s.withChannel c ((s.channel c).withLost 0)) q
        (.stepReport r (s.channel c).seq.lost)
      exact ⟨x, p, _, h⟩
    · split
      · exact ⟨s.cqs, s.port, s.channels, rfl⟩
      · exact ⟨s.cqs, s.port, _, rfl⟩

theorem State.offerChannelNotice_frame (c : ChannelId) (k : FaultCause) :
    ∃ x p ch, s.offerChannelNotice c k = { s with cqs := x, port := p, channels := ch } := by
  unfold State.offerChannelNotice
  split
  · exact ⟨s.cqs, s.port, s.channels, rfl⟩
  · split
    · rename_i q _ _ _
      obtain ⟨x, p, h⟩ := State.appendRecord_frame s q (.channelNotice c k)
      exact ⟨x, p, s.channels, h⟩
    · exact ⟨s.cqs, s.port, _, rfl⟩
  · exact ⟨s.cqs, s.port, _, rfl⟩

theorem State.offerHeld_frame (q : QueueId) (c : ChannelId) :
    ∃ x p ch, s.offerHeld q c = { s with cqs := x, port := p, channels := ch } := by
  unfold State.offerHeld
  split
  · exact ⟨s.cqs, s.port, s.channels, rfl⟩
  · split
    · rename_i h _ _
      obtain ⟨x, p, e⟩ := State.appendRecord_frame (s.withChannel c ((s.channel c).withHeld none)) q
        (.channelNotice c h.cause)
      exact ⟨x, p, _, e⟩
    · exact ⟨s.cqs, s.port, s.channels, rfl⟩

/-! ### The command table -/

theorem State.finishSlot_frame (k : SlotId) (t : Status) (d : Nat) :
    ∃ x p sl, s.finishSlot k t d = { s with cqs := x, port := p, slots := sl } := by
  unfold State.finishSlot
  split
  · rename_i w _
    obtain ⟨x, p, h⟩ := State.takeCompletion_frame s w t d
    rw [h]
    exact ⟨x, p, _, rfl⟩
  all_goals exact ⟨s.cqs, s.port, s.slots, rfl⟩

theorem State.closeIfDrained_frame (q : QueueId) :
    ∃ y x p sl, s.closeIfDrained q = { s with sqs := y, cqs := x, port := p, slots := sl } := by
  unfold State.closeIfDrained
  split
  · split
    · exact ⟨s.sqs, s.cqs, s.port, s.slots, rfl⟩
    · split
      · rename_i k _
        obtain ⟨x, p, sl, h⟩ := State.finishSlot_frame (s.withSq q { s.sq q with state := .closed }) k .success 0
        exact ⟨_, x, p, sl, h⟩
      · exact ⟨s.sqs, s.cqs, s.port, s.slots, rfl⟩
  all_goals exact ⟨s.sqs, s.cqs, s.port, s.slots, rfl⟩

/-- A command's end touches the submission queues (a CLOSING one may close), the completion queues, the port and the slots. -/
theorem State.complete_frame (k : SlotId) (t : Status) (d : Nat) :
    ∃ y x p sl, s.complete k t d = { s with sqs := y, cqs := x, port := p, slots := sl } := by
  unfold State.complete
  split
  · rename_i w _
    obtain ⟨x, p, sl, h⟩ := State.finishSlot_frame s k t d
    rw [h]
    obtain ⟨y', x', p', sl', h'⟩ := State.closeIfDrained_frame { s with cqs := x, port := p, slots := sl } w.sq
    exact ⟨y', x', p', sl', h'⟩
  all_goals exact ⟨s.sqs, s.cqs, s.port, s.slots, rfl⟩

/-! ### The halt's end -/

/-- A transaction's discarded end touches what the end of a halt resets, and the port. -/
theorem State.endDiscarded_frame (r : Requester) :
    ∃ y f l x v p e, s.endDiscarded r =
      { s with sqs := y, fetch := f, lastServed := l, cqs := x, vectors := v, port := p, engine := e } := by
  unfold State.endDiscarded State.endHaltIfDone
  split
  · exact ⟨_, _, _, _, _, _, _, rfl⟩
  · exact ⟨s.sqs, s.fetch, s.lastServed, s.cqs, s.vectors, _, s.engine, rfl⟩

theorem State.endHaltIfDone_frame :
    ∃ y f l x v e, s.endHaltIfDone =
      { s with sqs := y, fetch := f, lastServed := l, cqs := x, vectors := v, engine := e } := by
  unfold State.endHaltIfDone
  split
  · exact ⟨_, _, _, _, _, _, rfl⟩
  · exact ⟨s.sqs, s.fetch, s.lastServed, s.cqs, s.vectors, s.engine, rfl⟩

theorem State.dropDiscardedFetch_frame :
    ∃ y f l x v p e, s.dropDiscardedFetch =
      { s with sqs := y, fetch := f, lastServed := l, cqs := x, vectors := v, port := p, engine := e } := by
  unfold State.dropDiscardedFetch
  split
  · exact State.endDiscarded_frame _ _
  · exact ⟨s.sqs, s.fetch, s.lastServed, s.cqs, s.vectors, s.port, s.engine, rfl⟩

/-! ### Fetch start and settling -/

theorem State.serve_frame (q : QueueId) : ∃ l, s.serve q = { s with lastServed := l } := by
  unfold State.serve
  split
  · exact ⟨s.lastServed, rfl⟩
  · exact ⟨_, rfl⟩

theorem State.startFetchFrom_frame (q b : QueueId) (k : SlotId) :
    ∃ sl x f l n p, s.startFetchFrom q b k =
      { s with slots := sl, cqs := x, fetch := f, lastServed := l, nextAge := n, port := p } := by
  unfold State.startFetchFrom
  dsimp only
  obtain ⟨l, h⟩ := State.serve_frame
    ((s.withSlot k (.fetching s.nextAge q b)).withCq b { s.cq b with reserved := (s.cq b).reserved + 1 }) q
  rw [h]
  exact ⟨_, _, _, l, _, _, rfl⟩

theorem State.startFetch_frame :
    ∃ sl x f l n p, s.startFetch =
      { s with slots := sl, cqs := x, fetch := f, lastServed := l, nextAge := n, port := p } := by
  have stay : ∃ sl x f l n p, s =
      { s with slots := sl, cqs := x, fetch := f, lastServed := l, nextAge := n, port := p } :=
    ⟨s.slots, s.cqs, s.fetch, s.lastServed, s.nextAge, s.port, rfl⟩
  unfold State.startFetch
  split
  · split
    · split
      · exact State.startFetchFrom_frame _ _ _ _
      · exact stay
    · exact stay
  · exact stay

/-- Settling touches the slots, the reservations, the fetch record, the last-served values, the ages and the port. -/
theorem State.settle_frame :
    ∃ sl x f l n p, s.settle =
      { s with slots := sl, cqs := x, fetch := f, lastServed := l, nextAge := n, port := p } := by
  unfold State.settle
  obtain ⟨sl, x, f, l, n, p, h⟩ := State.startFetch_frame s
  rw [h]
  obtain ⟨p1, h1⟩ := State.beginTransaction_frame
    { s with slots := sl, cqs := x, fetch := f, lastServed := l, nextAge := n, port := p }
  rw [h1]
  obtain ⟨p2, h2⟩ := State.beginTransaction_frame
    { s with slots := sl, cqs := x, fetch := f, lastServed := l, nextAge := n, port := p1 }
  rw [h2]
  obtain ⟨p3, h3⟩ := State.beginTransaction_frame
    { s with slots := sl, cqs := x, fetch := f, lastServed := l, nextAge := n, port := p2 }
  rw [h3]
  obtain ⟨p4, h4⟩ := State.beginTransaction_frame
    { s with slots := sl, cqs := x, fetch := f, lastServed := l, nextAge := n, port := p3 }
  rw [h4]
  exact ⟨sl, x, f, l, n, p4, rfl⟩

theorem State.takeRecord_frame (f : FetchRecord) (code : CommandCode) (tag : BitVec 16) (channel : Byte) :
    ∃ y sl p g, s.takeRecord f code tag channel = { s with sqs := y, slots := sl, port := p, fetch := g } :=
  ⟨_, _, _, _, rfl⟩

/-! ### Channels -/

theorem State.endRun_frame (c : ChannelId) :
    ∃ y x p sl ch, s.endRun c = { s with sqs := y, cqs := x, port := p, slots := sl, channels := ch } := by
  have e : ∀ (ch : Channel) (k : SlotId) (t : Status), ∃ y x p sl cs, (s.withChannel c ch).complete k t 0 =
      { s with sqs := y, cqs := x, port := p, slots := sl, channels := cs } := by
    intro ch k t
    obtain ⟨y, x, p, sl, h⟩ := State.complete_frame (s.withChannel c ch) k t 0
    exact ⟨y, x, p, sl, _, h⟩
  unfold State.endRun
  dsimp only
  split
  · exact e _ _ _
  all_goals exact ⟨s.sqs, s.cqs, s.port, s.slots, _, rfl⟩

theorem State.faultChannel_frame (c : ChannelId) (k : FaultCause) :
    ∃ y x p sl ch, s.faultChannel c k = { s with sqs := y, cqs := x, port := p, slots := sl, channels := ch } := by
  have e : ∀ (ch : Channel) (k : SlotId) (t : Status), ∃ y x p sl cs, (s.withChannel c ch).complete k t 0 =
      { s with sqs := y, cqs := x, port := p, slots := sl, channels := cs } := by
    intro ch k t
    obtain ⟨y, x, p, sl, h⟩ := State.complete_frame (s.withChannel c ch) k t 0
    exact ⟨y, x, p, sl, _, h⟩
  unfold State.faultChannel
  dsimp only
  split
  · exact e _ _ _
  all_goals exact ⟨s.sqs, s.cqs, s.port, s.slots, _, rfl⟩

theorem State.completeStop_frame (g : Option Graceful) (t : Status) :
    ∃ y x p sl, s.completeStop g t = { s with sqs := y, cqs := x, port := p, slots := sl } := by
  unfold State.completeStop
  split
  · exact State.complete_frame _ _ _ _
  · exact ⟨s.sqs, s.cqs, s.port, s.slots, rfl⟩

theorem State.faultEntry_frame (c : ChannelId) (k : FaultCause) :
    ∃ y x p sl ch, s.faultEntry c k = { s with sqs := y, cqs := x, port := p, slots := sl, channels := ch } := by
  unfold State.faultEntry
  split
  · obtain ⟨y, x, p, sl, ch, h⟩ := State.faultChannel_frame s c k
    rw [h]
    obtain ⟨y1, x1, p1, sl1, h1⟩ := State.completeStop_frame
      { s with sqs := y, cqs := x, port := p, slots := sl, channels := ch } (s.channel c).seq.state.graceful .channelFault
    rw [h1]
    obtain ⟨x2, p2, ch2, h2⟩ := State.offerChannelNotice_frame
      { s with sqs := y1, cqs := x1, port := p1, slots := sl1, channels := ch } c k
    exact ⟨y1, x2, p2, sl1, ch2, h2⟩
  · exact ⟨s.sqs, s.cqs, s.port, s.slots, s.channels, rfl⟩

theorem State.leaveStep_frame (c : ChannelId) (r : StepRecord) :
    ∃ y x p sl ch, s.leaveStep c r = { s with sqs := y, cqs := x, port := p, slots := sl, channels := ch } := by
  have comp : ∀ (t : State) (k : SlotId),
      (∃ y x p sl ch, t = { s with sqs := y, cqs := x, port := p, slots := sl, channels := ch }) →
      ∃ y x p sl ch, t.complete k .success 0 =
        { s with sqs := y, cqs := x, port := p, slots := sl, channels := ch } := by
    rintro t k ⟨y, x, p, sl, ch, rfl⟩
    obtain ⟨y1, x1, p1, sl1, h1⟩ := State.complete_frame
      { s with sqs := y, cqs := x, port := p, slots := sl, channels := ch } k .success 0
    exact ⟨y1, x1, p1, sl1, ch, h1⟩
  unfold State.leaveStep
  dsimp only
  split
  · exact comp _ _ (State.endRun_frame s c)
  · exact comp _ _ ⟨s.sqs, s.cqs, s.port, s.slots, _, rfl⟩
  all_goals exact ⟨s.sqs, s.cqs, s.port, s.slots, _, rfl⟩

/-- An advance touches the queues, the port, the slots and the channels. -/
theorem State.advanceStep_frame (c : ChannelId) (k : AdvanceCause) :
    ∃ y x p sl ch, s.advanceStep c k = { s with sqs := y, cqs := x, port := p, slots := sl, channels := ch } := by
  unfold State.advanceStep
  dsimp only
  split
  · exact ⟨s.sqs, s.cqs, s.port, s.slots, s.channels, rfl⟩
  · rename_i r _
    obtain ⟨y, x, p, sl, ch, h⟩ := State.leaveStep_frame
      (s.withChannel c (((s.channel c).seeded r).countMark r)) c r
    rw [h]
    split
    · obtain ⟨x1, p1, ch1, h1⟩ := State.offerReport_frame
        { s with sqs := y, cqs := x, port := p, slots := sl, channels := ch } c
        (reportOf c k (s.channel c) (State.channel
          { s with sqs := y, cqs := x, port := p, slots := sl, channels := ch } c))
      exact ⟨y, x1, p1, sl, ch1, h1⟩
    · exact ⟨y, x, p, sl, ch, rfl⟩

theorem State.takeEdge_frame (c : ChannelId) :
    ∃ y x p sl ch, s.takeEdge c = { s with sqs := y, cqs := x, port := p, slots := sl, channels := ch } := by
  unfold State.takeEdge
  dsimp only
  split
  · obtain ⟨y, x, p, sl, ch, h⟩ := State.faultEntry_frame
      (s.withChannel c { s.channel c with est := (s.channel c).est.afterEdge }) c .overspeed
    exact ⟨y, x, p, sl, ch, h⟩
  · split
    · obtain ⟨y, x, p, sl, ch, h⟩ := State.advanceStep_frame
        (s.withChannel c (s.channel c).edgeRecorded) c .sensed
      exact ⟨y, x, p, sl, ch, h⟩
    · exact ⟨s.sqs, s.cqs, s.port, s.slots, _, rfl⟩

/-- The edges of a sample touch the queues, the port, the slots, the channels and the counter of free orders. -/
theorem State.offerEdges_frame (c : ChannelId) (n : Nat) (edges : List LineId) :
    ∃ y x p sl ch, State.offerEdges c n edges s =
      { s with sqs := y, cqs := x, port := p, slots := sl, channels := ch } := by
  induction n generalizing s edges with
  | zero => exact ⟨s.sqs, s.cqs, s.port, s.slots, s.channels, rfl⟩
  | succ n ih =>
    unfold State.offerEdges
    split
    · exact ⟨s.sqs, s.cqs, s.port, s.slots, s.channels, rfl⟩
    · obtain ⟨y, x, p, sl, ch, h⟩ := State.takeEdge_frame s c
      obtain ⟨y1, x1, p1, sl1, ch1, h1⟩ := ih (s.takeEdge c) _
      rw [h1, h]
      exact ⟨y1, x1, p1, sl1, ch1, rfl⟩

theorem State.sampleSense_frame (c : ChannelId) (sample : Table 3 Level) :
    ∃ y x p sl ch, s.sampleSense c sample =
      { s with sqs := y, cqs := x, port := p, slots := sl, channels := ch } := by
  obtain ⟨y, x, p, sl, ch, h⟩ := State.offerEdges_frame
    (s.withChannel c ((s.channel c).sampled sample)) c 3 ((s.channel c).edgesOf sample)
  exact ⟨y, x, p, sl, ch, h⟩

theorem State.forcedAdvance_frame (c : ChannelId) :
    ∃ y x p sl ch, s.forcedAdvance c = { s with sqs := y, cqs := x, port := p, slots := sl, channels := ch } := by
  unfold State.forcedAdvance
  dsimp only
  split
  · obtain ⟨y, x, p, sl, ch, h⟩ := State.faultEntry_frame
      (s.withChannel c { s.channel c with
        est := { (s.channel c).est with forcedCount := (s.channel c).est.forcedCount + 1 } }) c .lostSense
    exact ⟨y, x, p, sl, ch, h⟩
  · obtain ⟨y, x, p, sl, ch, h⟩ := State.advanceStep_frame
      (s.withChannel c { s.channel c with est := { (s.channel c).est with
        forcedCount := (s.channel c).est.forcedCount + 1, spanValid := false } }) c .forced
    exact ⟨y, x, p, sl, ch, h⟩

theorem State.findBlank_frame (c : ChannelId) : ∃ ch, s.findBlank c = { s with channels := ch } := by
  unfold State.findBlank
  dsimp only
  split
  · exact ⟨_, rfl⟩
  · exact ⟨s.channels, rfl⟩

theorem State.findWindow_frame (c : ChannelId) :
    ∃ y x p sl ch, s.findWindow c = { s with sqs := y, cqs := x, port := p, slots := sl, channels := ch } := by
  unfold State.findWindow
  split
  · exact State.forcedAdvance_frame _ _
  · split
    · exact State.advanceStep_frame _ _ _
    · split
      · exact State.advanceStep_frame _ _ _
      · split
        · exact State.faultEntry_frame _ _ _
        · exact ⟨s.sqs, s.cqs, s.port, s.slots, s.channels, rfl⟩

theorem State.findDeadline_frame (c : ChannelId) :
    ∃ y x p sl ch, s.findDeadline c = { s with sqs := y, cqs := x, port := p, slots := sl, channels := ch } := by
  unfold State.findDeadline
  split
  · obtain ⟨y, x, p, sl, ch, h⟩ := State.endRun_frame s c
    rw [h]
    obtain ⟨y1, x1, p1, sl1, h1⟩ := State.completeStop_frame
      { s with sqs := y, cqs := x, port := p, slots := sl, channels := ch } (s.channel c).seq.state.graceful .deadline
    exact ⟨y1, x1, p1, sl1, ch, h1⟩
  · exact ⟨s.sqs, s.cqs, s.port, s.slots, s.channels, rfl⟩

/-- What a tick finds touches the queues, the port, the slots, the channels and the counter of free orders. -/
theorem State.findAll_frame (c : ChannelId) :
    ∃ y x p sl ch n, s.findAll c =
      { s with sqs := y, cqs := x, port := p, slots := sl, channels := ch, choice := n } := by
  have two : ∀ (t : State) (n : Nat) (b : Bool), ∃ y x p sl ch,
      (if b then (State.findDeadline { t with choice := n } c).findWindow c
        else (State.findWindow { t with choice := n } c).findDeadline c) =
      { t with sqs := y, cqs := x, port := p, slots := sl, channels := ch, choice := n } := by
    intro t n b
    split
    · obtain ⟨y, x, p, sl, ch, h⟩ := State.findDeadline_frame { t with choice := n } c
      rw [h]
      obtain ⟨y1, x1, p1, sl1, ch1, h1⟩ := State.findWindow_frame
        { t with sqs := y, cqs := x, port := p, slots := sl, channels := ch, choice := n } c
      exact ⟨y1, x1, p1, sl1, ch1, h1⟩
    · obtain ⟨y, x, p, sl, ch, h⟩ := State.findWindow_frame { t with choice := n } c
      rw [h]
      obtain ⟨y1, x1, p1, sl1, ch1, h1⟩ := State.findDeadline_frame
        { t with sqs := y, cqs := x, port := p, slots := sl, channels := ch, choice := n } c
      exact ⟨y1, x1, p1, sl1, ch1, h1⟩
  unfold State.findAll
  dsimp only
  obtain ⟨cs, h⟩ := State.findBlank_frame s c
  rw [h]
  split
  · obtain ⟨y, x, p, sl, ch, e⟩ := two { s with channels := cs } (s.choice + 1) (Config.deadlineFirst s.choice)
    exact ⟨y, x, p, sl, ch, _, e⟩
  · obtain ⟨y, x, p, sl, ch, e⟩ := two { s with channels := cs } s.choice false
    exact ⟨y, x, p, sl, ch, _, e⟩

theorem State.countTick_frame (c : ChannelId) :
    ∃ y x p sl ch n, s.countTick c =
      { s with sqs := y, cqs := x, port := p, slots := sl, channels := ch, choice := n } := by
  unfold State.countTick
  dsimp only
  obtain ⟨y, x, p, sl, ch, n, h⟩ := State.findAll_frame s c
  rw [h]
  split
  · exact ⟨y, x, p, sl, _, n, rfl⟩
  · exact ⟨y, x, p, sl, ch, n, rfl⟩

/-! ### The engine -/

/-- What each channel's operation touches, the sweep over the four channels touches. -/
theorem State.forChannels_frame (f : State → ChannelId → State)
    (hf : ∀ (t : State) (c : ChannelId), ∃ y x p sl ch,
      f t c = { t with sqs := y, cqs := x, port := p, slots := sl, channels := ch }) :
    ∃ y x p sl ch, s.forChannels f = { s with sqs := y, cqs := x, port := p, slots := sl, channels := ch } := by
  have all : ∀ (l : List ChannelId) (t : State), ∃ y x p sl ch,
      l.foldl f t = { t with sqs := y, cqs := x, port := p, slots := sl, channels := ch } := by
    intro l
    induction l with
    | nil => exact fun t => ⟨t.sqs, t.cqs, t.port, t.slots, t.channels, rfl⟩
    | cons c rest ih =>
      intro t
      obtain ⟨y, x, p, sl, ch, h⟩ := hf t c
      obtain ⟨y1, x1, p1, sl1, ch1, h1⟩ := ih { t with sqs := y, cqs := x, port := p, slots := sl, channels := ch }
      exact ⟨y1, x1, p1, sl1, ch1, by rw [List.foldl_cons, h, h1]⟩
  exact all _ s

/-- The entry into FATAL leaves the waiting commands, the counters, the reset pin, the last-served values, the vector unit and the windows. -/
theorem State.enterFatal_frame (cause : EngineCause) :
    ∃ e y f sl ca x p ch, s.enterFatal cause =
      { s with engine := e, sqs := y, fetch := f, slots := sl, cancels := ca, cqs := x, port := p, channels := ch } := by
  unfold State.enterFatal
  dsimp only
  obtain ⟨y, x, p, sl, ch, h⟩ := State.forChannels_frame
    (({ s.discardCommands with engine := { s.engine with state := .fatal, cause := cause } } : State).withPort
      (({ s.discardCommands with engine := { s.engine with state := .fatal, cause := cause } } : State).port.atFatal))
    (fun u c => u.faultEntry c .engine) (fun t c => State.faultEntry_frame t c .engine)
  rw [h]
  exact ⟨_, _, _, _, _, _, _, _, rfl⟩

/-- The start of a halt leaves the waiting commands, the counters, the reset pin, the ages and the windows. -/
theorem State.beginHalt_frame :
    ∃ e y f l sl ca x v p ch, s.beginHalt =
      { s with engine := e, sqs := y, fetch := f, lastServed := l, slots := sl, cancels := ca, cqs := x,
               vectors := v, port := p, channels := ch } := by
  unfold State.beginHalt State.endHaltIfDone
  dsimp only
  split
  · exact ⟨_, _, _, _, _, _, _, _, _, _, rfl⟩
  · exact ⟨_, _, _, s.lastServed, _, _, _, _, _, _, rfl⟩

end Sys2Proof.Machine
end

