-- ==== Sys2Proof/Laws/Channels.lean ====
section
/-! SUPPORT. What each shared operation does to the channels: the new channel as a function of the old one, and the other channels as they were. -/

namespace Sys2Proof.Machine

variable (s : State)

/-! ### Operations that touch no channel -/

@[simp] theorem State.hand_channel (r : Requester) (a : Addr) (j : ChannelId) : (s.hand r a).channel j = s.channel j := rfl

@[simp] theorem State.dropBegun_channel (r : Requester) (j : ChannelId) : (s.dropBegun r).channel j = s.channel j := rfl

@[simp] theorem State.issueLoadRead_channel (c : ChannelId) (j : ChannelId) :
    (s.issueLoadRead c).channel j = s.channel j := by
  obtain ⟨p, h⟩ := State.issueLoadRead_frame s c
  rw [h]; rfl

@[simp] theorem State.appendRecord_channel (q : QueueId) (r : CqRecord) (j : ChannelId) :
    (s.appendRecord q r).channel j = s.channel j := by
  obtain ⟨x, p, h⟩ := State.appendRecord_frame s q r
  rw [h]; rfl

@[simp] theorem State.offerQueueNotice_channel (q : QueueId) (k : QueueKind) (n : NoticeCause) (j : ChannelId) :
    (s.offerQueueNotice q k n).channel j = s.channel j := by
  obtain ⟨x, p, h⟩ := State.offerQueueNotice_frame s q k n
  rw [h]; rfl

@[simp] theorem State.complete_channel (k : SlotId) (t : Status) (d : Nat) (j : ChannelId) :
    (s.complete k t d).channel j = s.channel j := by
  obtain ⟨y, x, p, sl, h⟩ := State.complete_frame s k t d
  rw [h]; rfl

@[simp] theorem State.completeStop_channel (g : Option Graceful) (t : Status) (j : ChannelId) :
    (s.completeStop g t).channel j = s.channel j := by
  obtain ⟨y, x, p, sl, h⟩ := State.completeStop_frame s g t
  rw [h]; rfl

@[simp] theorem State.endDiscarded_channel (r : Requester) (j : ChannelId) :
    (s.endDiscarded r).channel j = s.channel j := by
  obtain ⟨y, f, l, x, v, p, e, h⟩ := State.endDiscarded_frame s r
  rw [h]; rfl

@[simp] theorem State.endHaltIfDone_channel (j : ChannelId) : s.endHaltIfDone.channel j = s.channel j := by
  obtain ⟨y, f, l, x, v, e, h⟩ := State.endHaltIfDone_frame s
  rw [h]; rfl

@[simp] theorem State.dropDiscardedFetch_channel (j : ChannelId) : s.dropDiscardedFetch.channel j = s.channel j := by
  obtain ⟨y, f, l, x, v, p, e, h⟩ := State.dropDiscardedFetch_frame s
  rw [h]; rfl

@[simp] theorem State.beginTransaction_channel (j : ChannelId) : s.beginTransaction.channel j = s.channel j := by
  obtain ⟨p, h⟩ := State.beginTransaction_frame s
  rw [h]; rfl

@[simp] theorem State.startFetch_channel (j : ChannelId) : s.startFetch.channel j = s.channel j := by
  obtain ⟨sl, x, f, l, n, p, h⟩ := State.startFetch_frame s
  rw [h]; rfl

@[simp] theorem State.settle_channel (j : ChannelId) : s.settle.channel j = s.channel j := by
  obtain ⟨sl, x, f, l, n, p, h⟩ := State.settle_frame s
  rw [h]; rfl

@[simp] theorem State.takeRecord_channel (f : FetchRecord) (code : CommandCode) (tag : BitVec 16) (channel : Byte)
    (j : ChannelId) : (s.takeRecord f code tag channel).channel j = s.channel j := rfl

/-! ### Offers: the lost count and the held notice -/

theorem State.offerReport_channel (c : ChannelId) (r : Report) :
    ∃ n, (n ≤ 255 ∨ n = (s.channel c).seq.lost) ∧
      ∀ j, (s.offerReport c r).channel j = if j = c then (s.channel c).withLost n else s.channel j := by
  have same : ∀ j, s.channel j = if j = c then (s.channel c).withLost (s.channel c).seq.lost else s.channel j := by
    intro j
    split
    · rename_i h; rw [h]; rfl
    · rfl
  unfold State.offerReport
  split
  · exact ⟨(s.channel c).seq.lost, .inr rfl, same⟩
  · split
    · exact ⟨0, .inl (by decide), fun j => by simp [State.withChannel_channel]⟩
    · split
      · exact ⟨(s.channel c).seq.lost, .inr rfl, same⟩
      · refine ⟨moreLost (s.channel c).seq.lost, .inl ?_, fun j => by simp [State.withChannel_channel]⟩
        unfold moreLost
        split <;> omega

theorem State.offerChannelNotice_channel (c : ChannelId) (k : FaultCause) :
    ∃ h, ∀ j, (s.offerChannelNotice c k).channel j = if j = c then (s.channel c).withHeld h else s.channel j := by
  have same : ∀ j, s.channel j = if j = c then (s.channel c).withHeld (s.channel c).seq.held else s.channel j := by
    intro j
    split
    · rename_i h; rw [h]; rfl
    · rfl
  unfold State.offerChannelNotice
  split
  · exact ⟨_, same⟩
  · split
    · exact ⟨(s.channel c).seq.held, fun j => by rw [State.appendRecord_channel]; exact same j⟩
    · exact ⟨_, fun j => State.withChannel_channel _ _ _ _⟩
  · exact ⟨_, fun j => State.withChannel_channel _ _ _ _⟩

theorem State.offerHeld_channel (q : QueueId) (c : ChannelId) :
    ∃ h, ∀ j, (s.offerHeld q c).channel j = if j = c then (s.channel c).withHeld h else s.channel j := by
  have same : ∀ j, s.channel j = if j = c then (s.channel c).withHeld (s.channel c).seq.held else s.channel j := by
    intro j
    split
    · rename_i h; rw [h]; rfl
    · rfl
  unfold State.offerHeld
  split
  · exact ⟨_, same⟩
  · split
    · exact ⟨none, fun j => by simp [State.withChannel_channel]⟩
    · exact ⟨_, same⟩

/-! ### Ends of a run and fault entry -/

/-- The channel after its run has ended in a stop (R82). -/
def Channel.endedRun (ch : Channel) : Channel :=
  match ch.store.standby with
  | .swapPending _ => { (ch.leave .idle).clearForced.clearLoop with store := ch.store.exchange .ready }
  | .empty | .ready | .loading _ => (ch.leave .idle).clearForced

theorem State.endRun_channel (c j : ChannelId) :
    (s.endRun c).channel j = if j = c then (s.channel c).endedRun else s.channel j := by
  unfold State.endRun Channel.endedRun
  cases h : (s.channel c).store.standby <;>
    simp [h, State.withChannel_channel, Channel.leave, Channel.clearForced]

/-- The channel after a fault entry, but for the held notice (R19, R90). -/
def Channel.faulted (ch : Channel) (k : FaultCause) : Channel :=
  match ch.store.standby with
  | .swapPending _ => (ch.leave (.fault k)).withStandby .ready
  | .empty | .ready | .loading _ => ch.leave (.fault k)

theorem State.faultEntry_channel (c : ChannelId) (k : FaultCause) (hon : (s.channel c).isOn = true) :
    ∃ h, ∀ j, (s.faultEntry c k).channel j = if j = c then ((s.channel c).faulted k).withHeld h else s.channel j := by
  have f : ∀ j, (s.faultChannel c k).channel j = if j = c then (s.channel c).faulted k else s.channel j := by
    intro j
    unfold State.faultChannel Channel.faulted
    cases h : (s.channel c).store.standby <;> simp [h, State.withChannel_channel, Channel.leave]
  unfold State.faultEntry
  rw [if_pos hon]
  obtain ⟨h, e⟩ := State.offerChannelNotice_channel
    ((s.faultChannel c k).completeStop (s.channel c).seq.state.graceful .channelFault) c k
  refine ⟨h, fun j => ?_⟩
  rw [e]
  split
  · simp [f]
  · rename_i hj; simp [f, hj]

theorem State.faultEntry_off (c : ChannelId) (k : FaultCause) (h : (s.channel c).isOn = false) : s.faultEntry c k = s := by
  unfold State.faultEntry
  rw [if_neg (by rw [h]; decide)]

/-! ### Advancing -/

/-- The channel after its step has been left by an advance, but for the seed, the counted mark and the lost count (R38, R39). -/
def Channel.left (ch : Channel) (r : StepRecord) : Channel :=
  match r.mark, ch.seq.state.graceful, ch.store.standby with
  | true, some _, _ => ch.endedRun
  | true, none, .swapPending _ => ch.swapAtMark
  | true, none, .empty => ch.follow r
  | true, none, .ready => ch.follow r
  | true, none, .loading _ => ch.follow r
  | false, _, _ => ch.follow r

theorem State.leaveStep_channel (c j : ChannelId) (r : StepRecord) :
    (s.leaveStep c r).channel j = if j = c then (s.channel c).left r else s.channel j := by
  unfold State.leaveStep Channel.left
  cases r.mark <;> cases h : (s.channel c).seq.state.graceful <;> cases e : (s.channel c).store.standby <;>
    simp [h, e, State.withChannel_channel, State.endRun_channel]

theorem State.advanceStep_channel (c : ChannelId) (k : AdvanceCause) (r : StepRecord)
    (hr : (s.channel c).current = some r) :
    ∃ n, (n ≤ 255 ∨ n = ((((s.channel c).seeded r).countMark r).left r).seq.lost) ∧
      ∀ j, (s.advanceStep c k).channel j =
        if j = c then ((((s.channel c).seeded r).countMark r).left r).withLost n else s.channel j := by
  have e : ∀ j, ((s.withChannel c (((s.channel c).seeded r).countMark r)).leaveStep c r).channel j =
      if j = c then (((s.channel c).seeded r).countMark r).left r else s.channel j := by
    intro j
    rw [State.leaveStep_channel]
    split
    · simp
    · rename_i h; simp [h]
  unfold State.advanceStep
  dsimp only
  rw [hr]
  dsimp only
  split
  · obtain ⟨n, hn, h⟩ := State.offerReport_channel
      ((s.withChannel c (((s.channel c).seeded r).countMark r)).leaveStep c r) c
      (reportOf c k (s.channel c) (((s.withChannel c (((s.channel c).seeded r).countMark r)).leaveStep c r).channel c))
    refine ⟨n, ?_, fun j => ?_⟩
    · rw [e, if_pos rfl] at hn; exact hn
    · rw [h, e, e, if_pos rfl]
      split <;> rfl
  · refine ⟨_, .inr rfl, fun j => ?_⟩
    rw [e]
    rfl

theorem State.advanceStep_absent (c : ChannelId) (k : AdvanceCause) (hr : (s.channel c).current = none) :
    s.advanceStep c k = s := by
  unfold State.advanceStep
  dsimp only
  rw [hr]

end Sys2Proof.Machine
end

