-- ==== Sys2Proof/Laws/ChannelSteps.lean ====
section
/-! SUPPORT. What a command, a clock and a step can do to a channel, said once: a property of channels that every change of a channel keeps is kept by every step. -/

namespace Sys2Proof.Machine

/-- A property holds of every channel. -/
def State.AllChannels (P : Channel → Prop) (s : State) : Prop := ∀ c, P (s.channel c)

/-- The changes the commands and the clock make to a channel, each with what is known where it is made, and a property that all of them keep. -/
structure ChannelClosed (P : Channel → Prop) : Prop where
  lost : ∀ ch n, P ch → n ≤ 255 → P (ch.withLost n)
  held : ∀ ch h, P ch → P (ch.withHeld h)
  endedRun : ∀ ch, P ch → P ch.endedRun
  faulted : ∀ ch n k, P ch → ch.isOn = true →
    (ch.est.forcedCount < ch.settings.forcedLimit →
      n ≤ ch.settings.forcedLimit ∧ (n = ch.settings.forcedLimit → k = .lostSense)) →
    P (Channel.faulted { ch with est := { ch.est with forcedCount := n } } k)
  left : ∀ ch r, P ch → ch.isOn = true → ch.current = some r → P (((ch.seeded r).countMark r).left r)
  bumped : ∀ ch n, P ch → ch.isOn = true → (ch.est.forcedCount < ch.settings.forcedLimit → n < ch.settings.forcedLimit) →
    P { ch with est := { ch.est with forcedCount := n, spanValid := false } }
  edge : ∀ ch, P ch → ch.isOn = true → P { ch with est := ch.est.afterEdge }
  recorded : ∀ ch, P ch → ch.isOn = true → P ch.edgeRecorded
  sampled : ∀ ch sample, P ch → P (ch.sampled sample)
  tick : ∀ ch, P ch → ch.isOn = true → ch.deadlineDue = false → P ch.countTick
  blank : ∀ ch, P ch → P { ch with seq := { ch.seq with blankFound := true } }
  started : ∀ ch n, P ch → ch.seq.state = .idle → ch.store.activeValid = true → 1 ≤ n → n ≤ 65535 → P (ch.started n)
  stopped : ∀ ch d k, P ch → ch.seq.state = .running → d ≤ 65535 → P (ch.stopAtMark d k)
  unstopped : ∀ ch g, P ch → ch.seq.state = .stopping g → P { ch with seq := { ch.seq with state := .running } }
  cleared : ∀ ch k, P ch → ch.seq.state = .fault k → P ch.cleared
  loading : ∀ ch l, P ch → ch.store.standby.priorOf = some l.prior → l.buffer = [] → 1 ≤ l.count → l.first + l.count ≤ 16 →
    P (ch.withStandby (.loading l))
  loadMore : ∀ ch l r, P ch → ch.store.standby = .loading l → r.InRange → l.buffer.length + 1 ≠ l.count →
    P (ch.withStandby (.loading { l with buffer := l.buffer ++ [r] }))
  loadDone : ∀ ch l r, P ch → ch.store.standby = .loading l → r.InRange → l.buffer.length + 1 = l.count →
    P { ch with
      store := { ch.store with
        banks := ch.store.banks.write (otherBank ch.store.active) (l.write (l.buffer ++ [r]) ch.store.standbyBank),
        standby := .ready } }
  giveUp : ∀ ch, P ch → P (ch.withStandby ch.store.standby.giveUp)
  commitNow : ∀ ch, P ch → ch.store.standby = .ready → ch.store.standbyBank.lowestMissing = none → ch.isOn = false →
    P { ch.clearLoop with store := ch.store.swapAtOnce }
  commitLater : ∀ ch k, P ch → ch.store.standby = .ready → ch.store.standbyBank.lowestMissing = none → ch.isOn = true →
    P (ch.withStandby (.swapPending k))
  shadow : ∀ ch d, P ch → d ≤ 4096 → P (ch.withShadow d)
  period : ∀ ch, P ch → P ch.periodStarted
  trip : ∀ ch v, P ch → P (ch.withTripLine v)
  settings : ∀ ch x, P ch → ch.seq.state = .idle → x.InRange → P (ch.withSettings x)
  divRestart : ∀ ch, P ch → P ch.dividerRestarted
  saturate : ∀ ch, P ch → P ch.spanSaturated
  pwmClock : ∀ ch, P ch → P ch.pwmClock
  divider : ∀ ch n m, P ch → ch.est.divider = some m → n < ch.settings.clocksPerTick → P (ch.withDivider n)
  atHalt : ∀ ch, P ch → P ch.atHalt
  reset : ∀ p v, P (.reset p v)

variable {P : Channel → Prop} (hP : ChannelClosed P) {s : State}
include hP

omit hP in
theorem AllChannels.write {c : ChannelId} {ch : Channel} (h : s.AllChannels P) (hc : P ch) : (s.withChannel c ch).AllChannels P := by
  intro j; rw [State.withChannel_channel]; split
  · exact hc
  · exact h j

omit hP in
theorem AllChannels.writeOthers {c : ChannelId} {t : State} {ch : Channel} (h : ∀ j, j ≠ c → P (s.channel j)) (hc : P ch)
   (e : ∀ j, t.channel j = if j = c then ch else s.channel j) : t.AllChannels P := by
  intro j; rw [e]; split
  · exact hc
  · rename_i hj; exact h j hj

omit hP in
theorem AllChannels.same {t : State} (h : s.AllChannels P) (e : ∀ j, t.channel j = s.channel j) : t.AllChannels P := by
  intro j; rw [e]; exact h j

theorem AllChannels.endRun (h : s.AllChannels P) (c) : (s.endRun c).AllChannels P :=
  AllChannels.writeOthers (c := c) (fun j _ => h j) (hP.endedRun _ (h c)) (fun j => State.endRun_channel s c j)

theorem AllChannels.fault' {c k} (ch : Channel) (n) (h : ∀ j, j ≠ c → P (s.channel j)) (hch : P ch) (hon : ch.isOn = true)
   (hn : ch.est.forcedCount < ch.settings.forcedLimit → n ≤ ch.settings.forcedLimit ∧ (n = ch.settings.forcedLimit → k = .lostSense))
   (e : s.channel c = { ch with est := { ch.est with forcedCount := n } }) : (s.faultEntry c k).AllChannels P := by
  have : (s.channel c).isOn = true := by rw [e]; exact hon
  obtain ⟨hd, he⟩ := State.faultEntry_channel s c k this
  refine AllChannels.writeOthers h (hP.held _ hd ?_) he
  rw [e]; exact hP.faulted ch n k hch hon hn

theorem AllChannels.fault (h : s.AllChannels P) (c k) : (s.faultEntry c k).AllChannels P := by
  cases hon : (s.channel c).isOn
  · rw [State.faultEntry_off _ _ _ hon]; exact h
  · exact AllChannels.fault' hP (s.channel c) (s.channel c).est.forcedCount (fun j _ => h j) (h c) hon (by omega) rfl

theorem AllChannels.advanceStep (h : s.AllChannels P) (c k) (hon : (s.channel c).isOn = true) : (s.advanceStep c k).AllChannels P := by
  cases hr : (s.channel c).current with
  | none => rw [State.advanceStep_absent _ _ _ hr]; exact h
  | some r =>
    obtain ⟨n, hn, e⟩ := State.advanceStep_channel s c k r hr
    refine AllChannels.writeOthers (fun j _ => h j) ?_ e
    have := hP.left _ r (h c) hon hr
    rcases hn with hn | rfl
    · exact hP.lost _ _ this hn
    · exact this

theorem AllChannels.offerHeld (h : s.AllChannels P) (q c) : (s.offerHeld q c).AllChannels P := by
  obtain ⟨hd, e⟩ := State.offerHeld_channel s q c
  exact AllChannels.writeOthers (fun j _ => h j) (hP.held _ hd (h c)) e

omit hP in
theorem AllChannels.forChannels {f : State → ChannelId → State} (hf : ∀ (t : State) c, t.AllChannels P → (f t c).AllChannels P)
   (h : s.AllChannels P) : (s.forChannels f).AllChannels P := by
  unfold State.forChannels
  generalize List.finRange 4 = l
  induction l generalizing s with
  | nil => exact h
  | cons c rest ih => exact ih (hf _ c h)

theorem AllChannels.takeEdge (h : s.AllChannels P) (c) (hon : (s.channel c).isOn = true) : (s.takeEdge c).AllChannels P := by
  unfold State.takeEdge; dsimp only
  have w := AllChannels.write (c := c) h (hP.edge _ (h c) hon)
  have w' := AllChannels.write (c := c) h (hP.recorded _ (h c) hon)
  split
  · exact AllChannels.fault hP w _ _
  · split
    · exact AllChannels.advanceStep hP w' _ _ (by simp; exact hon)
    · exact w'

omit hP in
theorem Channel.takes_on {ch : Channel} {l v} (h : ch.takes l v = true) : ch.isOn = true := by
  unfold Channel.takes at h; revert h; cases ch.isOn <;> simp

omit hP in
theorem Channel.taken_on {ch : Channel} {edges l} (h : ch.taken edges = some l) : ch.isOn = true :=
  Channel.takes_on (List.find?_some (p := fun i => ch.takes i (ch.sense.accepted.read i)) h)

theorem AllChannels.offerEdges (h : s.AllChannels P) (c n edges) : (State.offerEdges c n edges s).AllChannels P := by
  induction n generalizing s edges with
  | zero => exact h
  | succ n ih =>
    unfold State.offerEdges
    split
    · exact h
    · exact ih (AllChannels.takeEdge hP h c (Channel.taken_on ‹_›)) _

theorem AllChannels.sampleSense (h : s.AllChannels P) (c sample) : (s.sampleSense c sample).AllChannels P :=
  AllChannels.offerEdges hP (AllChannels.write h (hP.sampled _ _ (h c))) _ _ _

omit hP in
theorem Channel.inMode_on {ch : Channel} {p} (h : ch.inMode p = true) : ch.isOn = true := by
  unfold Channel.inMode Channel.currentMode at h; revert h; cases ch.isOn <;> simp

theorem AllChannels.forcedAdvance (h : s.AllChannels P) (c) (hon : (s.channel c).isOn = true) : (s.forcedAdvance c).AllChannels P := by
  unfold State.forcedAdvance; dsimp only
  split
  · refine AllChannels.fault' hP (s.channel c) ((s.channel c).est.forcedCount + 1) (fun j hj => ?_) (h c) hon
      (fun hf => ⟨by omega, fun _ => rfl⟩) (by simp)
    rw [State.withChannel_channel_ne _ _ _ _ hj]; exact h j
  · refine AllChannels.advanceStep hP (AllChannels.write h (hP.bumped _ _ (h c) hon (by omega))) _ _ (by simp; exact hon)

theorem AllChannels.findBlank (h : s.AllChannels P) (c) : (s.findBlank c).AllChannels P := by
  unfold State.findBlank; dsimp only; split
  · exact AllChannels.write h (hP.blank _ (h c))
  · exact h

theorem AllChannels.findWindow (h : s.AllChannels P) (c) : (s.findWindow c).AllChannels P := by
  unfold State.findWindow
  split
  · rename_i hd; refine AllChannels.forcedAdvance hP h c (Channel.inMode_on (p := StepMode.isSensed) ?_)
    unfold Channel.timeoutDue at hd; revert hd; cases (s.channel c).inMode StepMode.isSensed <;> simp
  · split
    · rename_i hd; refine AllChannels.advanceStep hP h c _ (Channel.inMode_on (p := StepMode.isSensed) ?_)
      unfold Channel.delayDue at hd; revert hd; cases (s.channel c).inMode StepMode.isSensed <;> simp
    · split
      · rename_i hd; refine AllChannels.advanceStep hP h c _ (Channel.inMode_on (p := StepMode.hasLength) ?_)
        unfold Channel.lengthDue at hd; revert hd; cases (s.channel c).inMode StepMode.hasLength <;> simp
      · split
        · exact AllChannels.fault hP h _ _
        · exact h

theorem AllChannels.findDeadline (h : s.AllChannels P) (c) : (s.findDeadline c).AllChannels P := by
  unfold State.findDeadline; split
  · exact AllChannels.same (AllChannels.endRun hP h c) (fun j => State.completeStop_channel _ _ _ j)
  · exact h

theorem AllChannels.findAll (h : s.AllChannels P) (c) : (s.findAll c).AllChannels P := by
  unfold State.findAll; dsimp only
  have hb := AllChannels.findBlank hP h c
  have hb2 : ∀ n, ({ s.findBlank c with choice := n } : State).AllChannels P := fun n => hb
  generalize s.findBlank c = b at hb hb2
  split
  · split
    · exact AllChannels.findWindow hP (AllChannels.findDeadline hP (hb2 _) c) c
    · exact AllChannels.findDeadline hP (AllChannels.findWindow hP (hb2 _) c) c
  · exact AllChannels.findDeadline hP (AllChannels.findWindow hP hb c) c

omit hP in
theorem Channel.endedRun_state (ch : Channel) : ch.endedRun.seq.state = .idle := by
  unfold Channel.endedRun; split <;> rfl
omit hP in
theorem State.findDeadline_leaves_none (s : State) (c) : ((s.findDeadline c).channel c).deadlineDue = false := by
  unfold State.findDeadline; split
  · rw [State.completeStop_channel, State.endRun_channel, if_pos rfl]
    unfold Channel.deadlineDue; rw [Channel.endedRun_state]
  · rename_i h; simpa using h

omit hP in
theorem State.findWindow_off (s : State) (c) (h : (s.channel c).isOn = false) : s.findWindow c = s := by
  have hm : ∀ p, (s.channel c).inMode p = false := by intro p; unfold Channel.inMode Channel.currentMode; simp [h]
  unfold State.findWindow Channel.timeoutDue Channel.delayDue Channel.lengthDue Channel.hostLimitDue
  simp [hm]

omit hP in
theorem State.findAll_leaves_no_deadline (s : State) (c) : ((s.findAll c).channel c).deadlineDue = false := by
  unfold State.findAll; dsimp only; split
  · split
    · rename_i h1 h2
      have : ((State.findDeadline { (s.findBlank c) with choice := (s.findBlank c).choice + 1 } c).channel c).seq.state = .idle := by
        unfold State.findDeadline; 
        have hd : ((s.findBlank c).channel c).deadlineDue = true := by revert h1; cases ((s.findBlank c).channel c).deadlineDue <;> simp
        have hd' : (State.channel { (s.findBlank c) with choice := (s.findBlank c).choice + 1 } c).deadlineDue = true := hd
        rw [if_pos hd', State.completeStop_channel, State.endRun_channel, if_pos rfl, Channel.endedRun_state]
      rw [State.findWindow_off]
      · unfold Channel.deadlineDue; rw [this]
      · unfold Channel.isOn; rw [this]; rfl
    · exact State.findDeadline_leaves_none _ _
  · exact State.findDeadline_leaves_none _ _

theorem AllChannels.countTick (h : s.AllChannels P) (c) : (s.countTick c).AllChannels P := by
  unfold State.countTick; dsimp only
  have ha := AllChannels.findAll hP h c
  split
  · exact AllChannels.write ha (hP.tick _ (ha c) ‹_› (State.findAll_leaves_no_deadline s c))
  · exact ha

theorem AllChannels.discard (h : s.AllChannels P) : s.discardCommands.AllChannels P := by
  intro j; show P (Table.read (s.channels.map _) j); rw [Table.read_map]; exact hP.giveUp _ (h j)

theorem AllChannels.enterFatal (h : s.AllChannels P) (k) : (s.enterFatal k).AllChannels P := by
  unfold State.enterFatal; dsimp only
  exact AllChannels.forChannels (fun t c ht => AllChannels.fault hP ht c _) (AllChannels.same (AllChannels.discard hP h) (fun _ => rfl))

theorem AllChannels.beginHalt (h : s.AllChannels P) : (s.beginHalt).AllChannels P := by
  unfold State.beginHalt; dsimp only
  refine AllChannels.same (s := { s with channels := s.channels.map Channel.atHalt }) ?_ (fun j => by rw [State.endHaltIfDone_channel]; rfl)
  intro j; show P (Table.read (s.channels.map _) j); rw [Table.read_map]; exact hP.atHalt _ (h j)

theorem AllChannels.resetBlocks (k) : (s.resetBlocks k).AllChannels P := by
  intro j; show P (Table.read (s.channels.map _) j); rw [Table.read_map]; exact hP.reset _ _

omit hP in
theorem AllChannels.dispatch {code : CommandCode} {tag : BitVec 16} {channel : Byte} {owner : SlotId → State → State}
    (h : s.AllChannels P) (ho : ∀ k (u : State), u.AllChannels P → (owner k u).AllChannels P) :
    (s.dispatch code tag channel owner).AllChannels P := by
  unfold State.dispatch
  split
  · exact AllChannels.same h (fun j => State.dropDiscardedFetch_channel s j)
  · rename_i f _
    have ht : (s.takeRecord f code tag channel).AllChannels P := AllChannels.same h (fun _ => rfl)
    dsimp only
    split
    · exact AllChannels.same ht (fun j => State.complete_channel _ _ _ _ j)
    · split
      · exact AllChannels.same ht (fun j => State.complete_channel _ _ _ _ j)
      · split
        · exact AllChannels.same ht (fun j => State.complete_channel _ _ _ _ j)
        · exact ho _ _ ht

omit hP in
theorem AllChannels.onChannel {ch} {o : ChannelId → SlotId → State → State}
   (ho : ∀ c k (u : State), u.AllChannels P → (o c k u).AllChannels P) : ∀ k (u : State), u.AllChannels P → (onChannel ch o k u).AllChannels P := by
  intro k u h; unfold Sys2Proof.Machine.onChannel; split
  · exact ho _ _ _ h
  · exact h

omit hP in
theorem AllChannels.atEvent {f : State → State} {t} (hf : ∀ u : State, u.AllChannels P → (f u).AllChannels P) (h : s.AllChannels P)
   (e : atEvent f s = .next t) : t.AllChannels P := by
  unfold Sys2Proof.Machine.atEvent at e; cases e; split
  · exact h
  · exact hf _ (AllChannels.same h (fun j => State.settle_channel s j))

omit hP in
theorem AllChannels.comp (h : s.AllChannels P) (k t d) : (s.complete k t d).AllChannels P :=
  AllChannels.same h (fun j => State.complete_channel _ _ _ _ j)

omit hP in
theorem stepRecordOf_inRange {b r} (h : stepRecordOf b = some r) : r.InRange := by
  unfold stepRecordOf at h
  split at h
  · rename_i m _ _ _ br du hm _ _ _ hb hd
    cases h
    refine ⟨?_, ?_, ?_⟩
    · unfold modeOf at hm
      have l255 : ∀ x : Byte, x.toNat ≤ 255 := fun x => by have := x.isLt; omega
      have lh : ∀ x y : Byte, half16 x y ≤ 65535 := fun x y => by unfold half16; have := x.isLt; have := y.isLt; omega
      split at hm
      · split at hm
        · split at hm
          · cases hm
          · cases hm; exact ⟨l255 _, l255 _, by omega, l255 _⟩
        · cases hm
      · split at hm
        · cases hm
        · cases hm; exact ⟨by omega, lh _ _⟩
      · split at hm
        · cases hm
        · cases hm; exact ⟨by omega, l255 _⟩
      · cases hm; exact lh _ _
      · cases hm
    · intro x hx
      unfold branchOf at hb
      split at hb
      · split at hb
        · cases hb
        · cases hb; cases hx; have := (b.read 6).isLt; dsimp only; exact ⟨by omega, by omega⟩
      · cases hb; cases hx
    · intro d hx
      unfold dutyOf at hd
      split at hd
      · split at hd
        · cases hd
        · cases hd; cases hx; omega
      · cases hd; cases hx
  · cases h

omit hP in
theorem settingsOf_inRange {a b c d e f g h x} (hs : settingsOf a b c d e f g h = some x) : x.InRange := by
  unfold settingsOf at hs
  split at hs
  · rename_i lv cq h1 h2
    split at hs
    · rename_i hc
      simp only [inRange, Bool.and_eq_true, decide_eq_true_eq] at hc
      cases hs
      have := g.isLt
      refine ⟨by dsimp only; omega, by dsimp only; omega, by dsimp only; omega, by dsimp only; omega, by dsimp only; omega,
        by dsimp only; omega, ?_⟩
      dsimp only
      unfold reportCqOf at h2
      split at h2
      · cases h2; simp
      · split at h2
        · rename_i q hq
          cases h2
          unfold ioQueueOf at hq
          split at hq
          · split at hq
            · cases hq
            · cases hq; simpa using ‹_›
          · cases hq
        · cases h2
    · cases hs
  · cases hs

variable {t : State}

theorem AllChannels.keepsLoadSteps {tag : BitVec 16} {ch : Byte} {first : Byte} {count : Byte} {cr : Bool} {src : Addr}
    (h : s.AllChannels P) (e : execLoadSteps tag ch first count cr src s = .next t) :
    t.AllChannels P := by
  refine AllChannels.atEvent (fun u hu => AllChannels.dispatch hu (AllChannels.onChannel ?_)) h e
  intro c k u hu; unfold State.loadSteps; split
  · exact AllChannels.comp hu _ _ _
  · rename_i hv
    split
    · exact AllChannels.comp hu _ _ _
    · rename_i pr hpr
      split
      · exact AllChannels.comp hu _ _ _
      · refine AllChannels.same (AllChannels.write hu (hP.loading _ ⟨k, first.toNat, count.toNat, cr, src, pr, []⟩ (hu c) hpr rfl ?_ ?_))
            (fun j => State.issueLoadRead_channel _ _ j)
        all_goals simp [loadFieldsValid, inRange] at hv; dsimp only; omega

theorem AllChannels.keepsCommitSteps {tag : BitVec 16} {channel : Byte}
    (h : s.AllChannels P) (e : execCommitSteps tag channel s = .next t) :
    t.AllChannels P := by
  refine AllChannels.atEvent (fun u hu => AllChannels.dispatch hu (AllChannels.onChannel ?_)) h e
  intro c k u hu; unfold State.commitSteps; dsimp only; split
  · exact AllChannels.comp hu _ _ _
  · rename_i hs; split
    · exact AllChannels.comp hu _ _ _
    · split
      · exact AllChannels.write hu (hP.commitLater _ k (hu c) (by simpa using hs) ‹_› ‹_›)
      · exact AllChannels.comp (AllChannels.write hu (hP.commitNow _ (hu c) (by simpa using hs) ‹_› (by rename_i hn; simpa using hn))) _ _ _

theorem AllChannels.keepsStart {tag : BitVec 16} {ch : Byte} {ref : BitVec 16}
    (h : s.AllChannels P) (e : execStart tag ch ref s = .next t) :
    t.AllChannels P := by
  refine AllChannels.atEvent (fun u hu => AllChannels.dispatch hu (AllChannels.onChannel ?_)) h e
  intro c k u hu; unfold State.start; dsimp only
  repeat' split
  · exact AllChannels.comp hu _ _ _
  · exact AllChannels.comp hu _ _ _
  · exact AllChannels.comp hu _ _ _
  · exact AllChannels.comp hu _ _ _
  · rename_i h1 h2 h3 h4
    have g1 : (u.channel c).seq.state = .idle := by simpa using h2
    have g2 : (u.channel c).store.activeValid = true := by simpa using h3
    have g3 : 1 ≤ ref.toNat := by omega
    have g4 : ref.toNat ≤ 65535 := by have := ref.isLt; omega
    exact AllChannels.comp (AllChannels.write hu (hP.started _ _ (hu c) g1 g2 g3 g4)) _ _ _

theorem AllChannels.keepsStop {tag : BitVec 16} {channel mode : Byte} {deadline : BitVec 16} (h : s.AllChannels P)
    (e : execStop tag channel mode deadline s = .next t) : t.AllChannels P := by
  refine AllChannels.atEvent (fun u hu => AllChannels.dispatch hu (AllChannels.onChannel ?_)) h e
  intro c k u hu
  have now : (u.stopNow c k).AllChannels P :=
    AllChannels.comp (AllChannels.same (AllChannels.endRun hP hu c) (fun j => State.completeStop_channel _ _ _ j)) _ _ _
  unfold State.stop
  split
  · exact AllChannels.comp hu _ _ _
  · exact AllChannels.comp hu _ _ _
  · exact AllChannels.comp hu _ _ _
  · exact now
  · exact now
  · rename_i hr
    exact AllChannels.write hu (hP.stopped _ _ _ (hu c) hr (by have := deadline.isLt; omega))
  · exact AllChannels.comp hu _ _ _

theorem AllChannels.keepsAdvance {tag : BitVec 16} {channel : Byte}
    (h : s.AllChannels P) (e : execAdvance tag channel s = .next t) :
    t.AllChannels P := by
  refine AllChannels.atEvent (fun u hu => AllChannels.dispatch hu (AllChannels.onChannel ?_)) h e
  intro c k u hu; unfold State.advance; split
  · exact AllChannels.comp (AllChannels.advanceStep hP hu _ _ (Channel.inMode_on ‹_›)) _ _ _
  · exact AllChannels.comp hu _ _ _

theorem AllChannels.keepsClearFault {tag : BitVec 16} {channel : Byte}
    (h : s.AllChannels P) (e : execClearFault tag channel s = .next t) :
    t.AllChannels P := by
  refine AllChannels.atEvent (fun u hu => AllChannels.dispatch hu (AllChannels.onChannel ?_)) h e
  intro c k u hu; unfold State.clearFault; dsimp only
  split
  · exact AllChannels.comp hu _ _ _
  · rename_i hc; split
    · exact AllChannels.comp hu _ _ _
    · cases hst : (u.channel c).seq.state with
      | fault kk => exact AllChannels.comp (AllChannels.write hu (hP.cleared _ kk (hu c) hst)) _ _ _
      | _ => simp [hst, ChannelState.cause] at hc

theorem AllChannels.keepsSetDuty {tag : BitVec 16} {ch : Byte} {d : BitVec 16}
    (h : s.AllChannels P) (e : execSetDuty tag ch d s = .next t) :
    t.AllChannels P := by
  refine AllChannels.atEvent (fun u hu => AllChannels.dispatch hu (AllChannels.onChannel ?_)) h e
  intro c k u hu; unfold State.setDuty; split
  · exact AllChannels.comp hu _ _ _
  · exact AllChannels.comp (AllChannels.write hu (hP.shadow _ _ (hu c) (by omega))) _ _ _

omit hP in
theorem AllChannels.keepsReadChannel {tag : BitVec 16} {channel : Byte} {destination : Addr}
    (h : s.AllChannels P) (e : execReadChannel tag channel destination s = .next t) :
    t.AllChannels P := by
  refine AllChannels.atEvent (fun u hu => AllChannels.dispatch hu ?_) h e
  intro k u hu; unfold State.readChannel; repeat' split
  all_goals first
    | exact hu
    | (refine AllChannels.same hu (fun j => ?_); first | rfl | exact (State.complete_channel ..).trans rfl)

omit hP in
theorem AllChannels.keepsOpenSq {tag : BitVec 16} {queue : Byte} {boundCq : Byte} {priority : Byte} {size : BitVec 16}
    {base : Addr}
    (h : s.AllChannels P) (e : execOpenSq tag queue boundCq priority size base s = .next t) :
    t.AllChannels P := by
  refine AllChannels.atEvent (fun u hu => AllChannels.dispatch hu ?_) h e
  intro k u hu; unfold State.openSq; repeat' split
  all_goals first
    | exact hu
    | (refine AllChannels.same hu (fun j => ?_); first | rfl | exact (State.complete_channel ..).trans rfl)

omit hP in
theorem AllChannels.keepsCloseSq {tag : BitVec 16} {queue : Byte} (h : s.AllChannels P) (e : execCloseSq tag queue s = .next t) :
    t.AllChannels P := by
  refine AllChannels.atEvent (fun u hu => AllChannels.dispatch hu ?_) h e
  intro k u hu; unfold State.closeSq State.beginClose; repeat' split
  all_goals first
    | exact hu
    | (refine AllChannels.same hu (fun j => ?_); first | rfl | exact (State.complete_channel ..).trans rfl)

omit hP in
theorem AllChannels.keepsOpenCq {tag : BitVec 16} {queue : Byte} {vector : Byte} {threshold : Byte} {time : Byte}
    {size : BitVec 16} {base : Addr}
    (h : s.AllChannels P) (e : execOpenCq tag queue vector threshold time size base s = .next t) :
    t.AllChannels P := by
  refine AllChannels.atEvent (fun u hu => AllChannels.dispatch hu ?_) h e
  intro k u hu; unfold State.openCq; repeat' split
  all_goals first
    | exact hu
    | (refine AllChannels.same hu (fun j => ?_); first | rfl | exact (State.complete_channel ..).trans rfl)

omit hP in
theorem AllChannels.keepsCloseCq {tag : BitVec 16} {queue : Byte} (h : s.AllChannels P) (e : execCloseCq tag queue s = .next t) :
    t.AllChannels P := by
  refine AllChannels.atEvent (fun u hu => AllChannels.dispatch hu ?_) h e
  intro k u hu; unfold State.closeCq; repeat' split
  all_goals first
    | exact hu
    | (refine AllChannels.same hu (fun j => ?_); first | rfl | exact (State.complete_channel ..).trans rfl)

omit hP in
theorem AllChannels.keepsSetWindow {tag : BitVec 16} {number : Byte} {rights : Byte} {length : BitVec 32} {base : Addr}
    (h : s.AllChannels P) (e : execSetWindow tag number rights length base s = .next t) :
    t.AllChannels P := by
  refine AllChannels.atEvent (fun u hu => AllChannels.dispatch hu ?_) h e
  intro k u hu; unfold State.setWindow; repeat' split
  all_goals first
    | exact hu
    | (refine AllChannels.same hu (fun j => ?_); first | rfl | exact (State.complete_channel ..).trans rfl)

theorem AllChannels.keepsSetChannel {tag : BitVec 16} {channel : Byte} {prescale : Byte} {shift : Byte}
    {forcedLimit : Byte} {filter : Byte} {tripLevel : Byte} {reportCq : Byte} {minInterval : BitVec 16} {period : BitVec 16}
    (h : s.AllChannels P) (e : execSetChannel tag channel prescale shift forcedLimit filter tripLevel reportCq minInterval period s = .next t) :
    t.AllChannels P := by
  refine AllChannels.atEvent (fun u hu => AllChannels.dispatch hu (AllChannels.onChannel ?_)) h e
  intro c k u hu; unfold State.setChannel; repeat' split
  · exact AllChannels.comp hu _ _ _
  · exact AllChannels.comp hu _ _ _
  · exact AllChannels.comp hu _ _ _
  · rename_i x hx h1 h2
    have g1 : (u.channel c).seq.state = .idle := by simpa using h2
    exact AllChannels.comp (AllChannels.write hu (hP.settings _ _ (hu c) g1 (settingsOf_inRange hx))) _ _ _

omit hP in
theorem AllChannels.keepsCancel {tag : BitVec 16} {queue : Byte} {target : BitVec 16}
    (h : s.AllChannels P) (e : execCancel tag queue target s = .next t) :
    t.AllChannels P := by
  refine AllChannels.atEvent (fun u hu => AllChannels.dispatch hu ?_) h e
  intro k u hu; unfold State.cancel; repeat' split
  all_goals first
    | exact hu
    | (refine AllChannels.same hu (fun j => ?_); first | rfl | exact (State.complete_channel ..).trans rfl)

omit hP in
theorem AllChannels.keepsUnknownCommand {tag : BitVec 16} {code : Byte}
    (h : s.AllChannels P) (e : execUnknownCommand tag code s = .next t) :
    t.AllChannels P := by
  unfold execUnknownCommand at e; split at e
  · cases e
  · refine AllChannels.atEvent (fun u hu => AllChannels.dispatch hu ?_) h e
    intro k u hu; exact AllChannels.comp hu _ _ _

theorem AllChannels.keepsCancelRequest {kk : SlotId} (h : s.AllChannels P) (e : execCancelRequest kk s = .next t) :
    t.AllChannels P := by
  refine AllChannels.atEvent (fun u hu => ?_) h e
  unfold State.cancelRequest State.takeCancel; dsimp only
  split
  · rename_i x _
    have hu' : State.AllChannels P { u with cancels := u.cancels.eraseP fun y => y.canceller == kk } := hu
    split
    · rename_i w hw
      refine AllChannels.comp (AllChannels.comp ?_ _ _ _) _ _ _
      split at hw
      · split at hw
        · rename_i c _
          unfold State.withdraw at hw
          split at hw
          · split at hw
            · rename_i l hl
              split at hw
              · cases hw
                unfold State.cancelLoad
                refine AllChannels.same (AllChannels.write (c := c) hu (?_ : P ((u.channel c).withStandby l.prior.toStandby))) (fun _ => rfl)
                have := hP.giveUp _ (hu c)
                rw [show (u.channel c).store.standby = .loading l from hl] at this
                exact this
              · cases hw
            all_goals cases hw
          · split at hw
            · rename_i hsw
              cases hw
              refine AllChannels.same (AllChannels.write (c := c) hu (?_ : P ((u.channel c).withStandby .ready))) (fun _ => rfl)
              have := hP.giveUp _ (hu c)
              rw [show (u.channel c).store.standby = _ from hsw] at this
              exact this
            · cases hw
          · split at hw
            · rename_i g hg
              split at hw
              · cases hw
                exact AllChannels.same (AllChannels.write (c := c) hu (hP.unstopped _ g (hu c) hg)) (fun _ => rfl)
              · cases hw
            all_goals cases hw
          all_goals cases hw
        · cases hw
      · cases hw
    · exact AllChannels.comp hu' _ _ _
  · exact hu

omit hP in
theorem AllChannels.keepsFetchStart (h : s.AllChannels P) (e : execFetchStart s = .next t) :
    t.AllChannels P := by
  unfold execFetchStart at e; cases e; split
  · exact h
  · exact AllChannels.same h (fun j => State.startFetch_channel s j)

omit hP in
theorem State.failFetch_channel (f : FetchRecord) (j : ChannelId) : (s.failFetch f).channel j = s.channel j := by
  unfold State.failFetch
  rw [State.offerQueueNotice_channel]
  show ((((s.dropBegun (.fetch f.sq)).withSq f.sq { s.sq f.sq with state := .broken }).freeFetchSlot f.slot).channel j) = _
  unfold State.freeFetchSlot
  split <;> rfl

omit hP in
theorem AllChannels.keepsFetchReadError (h : s.AllChannels P) (e : execFetchReadError s = .next t) :
    t.AllChannels P := by
  refine AllChannels.atEvent (fun u hu => ?_) h e
  unfold State.fetchReadError
  split
  · split
    · exact hu
    · exact AllChannels.same hu (fun j => State.failFetch_channel _ j)
  · exact AllChannels.same hu (fun j => State.dropDiscardedFetch_channel u j)

theorem AllChannels.keepsAdminFetchError (h : s.AllChannels P) (e : execAdminFetchError s = .next t) :
    t.AllChannels P := by
  refine AllChannels.atEvent (fun u hu => ?_) h e
  unfold State.adminFetchError
  split
  · split
    · exact AllChannels.enterFatal hP (AllChannels.same hu (fun j => State.failFetch_channel _ j)) _
    · exact hu
  · exact AllChannels.same hu (fun j => State.dropDiscardedFetch_channel u j)

theorem AllChannels.keepsLoadRecordArrival {c : ChannelId} {bytes : Table 16 Byte}
    (h : s.AllChannels P) (e : execLoadRecordArrival c bytes s = .next t) :
    t.AllChannels P := by
  refine AllChannels.atEvent (fun u hu => ?_) h e
  unfold State.loadRecordArrival State.endOldLoadRead
  split
  · split
    · rename_i l hl
      have hu' : (u.dropBegun (.load c)).AllChannels P := hu
      unfold State.takeStepRecord
      split
      · unfold State.failLoad
        refine AllChannels.comp (AllChannels.write hu' (?_ : P ((u.channel c).withStandby l.prior.toStandby))) _ _ _
        have := hP.giveUp _ (hu c)
        rw [hl] at this
        exact this
      · rename_i r hr
        split
        · unfold State.finishLoad
          exact AllChannels.comp (AllChannels.write hu' (hP.loadDone _ l r (hu c) hl (stepRecordOf_inRange hr) ‹_›)) _ _ _
        · exact AllChannels.same (AllChannels.write hu' (hP.loadMore _ l r (hu c) hl (stepRecordOf_inRange hr) ‹_›))
            (fun j => State.issueLoadRead_channel _ _ j)
    all_goals exact AllChannels.same hu (fun j => State.endDiscarded_channel _ _ j)
  · split
    · exact AllChannels.same hu (fun j => by rw [State.issueLoadRead_channel, State.endDiscarded_channel])
    · exact hu

theorem AllChannels.keepsLoadReadBusError {c : ChannelId} (h : s.AllChannels P) (e : execLoadReadBusError c s = .next t) :
    t.AllChannels P := by
  refine AllChannels.atEvent (fun u hu => ?_) h e
  unfold State.loadReadBusError State.endOldLoadRead
  split
  · split
    · rename_i l hl
      have hu' : (u.dropBegun (.load c)).AllChannels P := hu
      unfold State.failLoad
      refine AllChannels.comp (AllChannels.write hu' (?_ : P ((u.channel c).withStandby l.prior.toStandby))) _ _ _
      have := hP.giveUp _ (hu c)
      rw [hl] at this
      exact this
    all_goals exact AllChannels.same hu (fun j => State.endDiscarded_channel _ _ j)
  · split
    · exact AllChannels.same hu (fun j => by rw [State.issueLoadRead_channel, State.endDiscarded_channel])
    · exact hu

omit hP in
theorem AllChannels.keepsPortBeginTransaction (h : s.AllChannels P) (e : execPortBeginTransaction s = .next t) :
    t.AllChannels P := by
  unfold execPortBeginTransaction at e; cases e; split
  · exact h
  · exact AllChannels.same h (fun j => State.beginTransaction_channel s j)

omit hP in
theorem AllChannels.keepsSnapshotWriteDone {k : SlotId} (h : s.AllChannels P) (e : execSnapshotWriteDone k s = .next t) :
    t.AllChannels P := by
  refine AllChannels.atEvent (fun u hu => ?_) h e
  have dropped : (u.dropBegun (.snapshot k)).AllChannels P := hu
  unfold State.snapshotDone
  split
  · exact AllChannels.comp dropped _ _ _
  · split
    · exact AllChannels.same hu (fun j => State.endDiscarded_channel _ _ j)
    · exact hu

omit hP in
theorem AllChannels.keepsSnapshotWriteError {k : SlotId} (h : s.AllChannels P) (e : execSnapshotWriteError k s = .next t) :
    t.AllChannels P := by
  refine AllChannels.atEvent (fun u hu => ?_) h e
  have dropped : (u.dropBegun (.snapshot k)).AllChannels P := hu
  unfold State.snapshotFailed
  split
  · exact AllChannels.comp dropped _ _ _
  · split
    · exact AllChannels.same hu (fun j => State.endDiscarded_channel _ _ j)
    · exact hu

omit hP in
theorem AllChannels.keepsCqWriteDone {q : QueueId} (h : s.AllChannels P) (e : execCqWriteDone q s = .next t) :
    t.AllChannels P := by
  refine AllChannels.atEvent (fun u hu => ?_) h e
  unfold State.cqWriteDone
  split
  · split
    · dsimp only; split
      · exact AllChannels.same hu (fun j => by rw [State.endHaltIfDone_channel]; rfl)
      · refine AllChannels.same hu (fun j => ?_)
        obtain ⟨p, hp⟩ := State.handCqWrite_frame
          (((u.dropBegun (.cqWrite q)).withCq q (u.cq q).afterWrite).withVectors (u.vectors.count q (u.cq q) ‹_›)) q
        rw [hp]; rfl
    · exact AllChannels.same hu (fun j => State.endDiscarded_channel _ _ j)
  · exact hu

theorem AllChannels.keepsCqWriteError {q : QueueId} (h : s.AllChannels P) (e : execCqWriteError q s = .next t) :
    t.AllChannels P := by
  have off : ∀ (u v : State) a b c', u.AllChannels P → (∀ j, v.channel j = u.channel j) → (v.offerQueueNotice a b c').AllChannels P :=
    fun u v a b c' hu e => AllChannels.same hu (fun j => by rw [State.offerQueueNotice_channel]; exact e j)
  have brk : ∀ (u : State), u.AllChannels P → (u.breakCq q).AllChannels P := by
    intro u hu j
    show P (Table.read (u.channels.map _) j); rw [Table.read_map]
    unfold Channel.dropHeldOn; repeat' split
    all_goals first | exact hu j | exact hP.held _ _ (hu j)
  unfold execCqWriteError at e; split at e
  · cases e
  refine AllChannels.atEvent (fun u hu => ?_) h e
  unfold State.cqWriteError
  have hb := brk (u.dropBegun (.cqWrite q)) hu
  split
  · split
    · exact AllChannels.same hu (fun j => State.endDiscarded_channel _ _ j)
    · exact off _ _ _ _ _ hb (fun _ => rfl)
  · exact hu

theorem AllChannels.keepsAdminWriteError (h : s.AllChannels P) (e : execAdminWriteError s = .next t) :
    t.AllChannels P := by
  have brk : ∀ (u : State), u.AllChannels P → (u.breakCq 0).AllChannels P := by
    intro u hu j
    show P (Table.read (u.channels.map _) j); rw [Table.read_map]
    unfold Channel.dropHeldOn; repeat' split
    all_goals first | exact hu j | exact hP.held _ _ (hu j)
  refine AllChannels.atEvent (fun u hu => ?_) h e
  unfold State.adminWriteError
  have hb := brk (u.dropBegun (.cqWrite 0)) hu
  split
  · split
    · exact AllChannels.same hu (fun j => State.endDiscarded_channel _ _ j)
    · dsimp only; split
      · exact AllChannels.enterFatal hP hb _
      · exact hb
  · exact hu

omit hP in
theorem AllChannels.keepsDiscardedTransactionEnd {r : Requester}
    (h : s.AllChannels P) (e : execDiscardedTransactionEnd r s = .next t) :
    t.AllChannels P := by
  refine AllChannels.atEvent (fun u hu => ?_) h e
  unfold State.discardedEnd State.afterDiscarded
  repeat' split
  all_goals first
    | exact hu
    | exact AllChannels.same hu (fun j => by rw [State.issueLoadRead_channel, State.endDiscarded_channel])
    | exact AllChannels.same hu (fun j => State.endDiscarded_channel _ _ j)

omit hP in
theorem AllChannels.keepsCoalescingTimerExpiry {q : QueueId} (h : s.AllChannels P) (e : execCoalescingTimerExpiry q s = .next t) :
    t.AllChannels P := by
  refine AllChannels.atEvent (fun u hu => ?_) h e
  unfold State.expireTimer; split <;> exact hu

theorem AllChannels.keepsBlankEnd {c : ChannelId} (h : s.AllChannels P) (e : execBlankEnd c s = .next t) :
    t.AllChannels P := by
  exact AllChannels.atEvent (fun u hu => AllChannels.findBlank hP hu c) h e

theorem AllChannels.keepsTimeout {c : ChannelId} (h : s.AllChannels P) (e : execTimeout c s = .next t) :
    t.AllChannels P := by
  refine AllChannels.atEvent (fun u hu => ?_) h e
  unfold State.findTimeout; split
  · rename_i hd; refine AllChannels.forcedAdvance hP hu c (Channel.inMode_on (p := StepMode.isSensed) ?_)
    unfold Channel.timeoutDue at hd; revert hd; cases (u.channel c).inMode StepMode.isSensed <;> simp
  · exact hu

theorem AllChannels.keepsDelayEnd {c : ChannelId} (h : s.AllChannels P) (e : execDelayEnd c s = .next t) :
    t.AllChannels P := by
  refine AllChannels.atEvent (fun u hu => ?_) h e
  unfold State.findDelayEnd; split
  · rename_i hd; refine AllChannels.advanceStep hP hu c _ (Channel.inMode_on (p := StepMode.isSensed) ?_)
    unfold Channel.delayDue at hd; revert hd; cases (u.channel c).inMode StepMode.isSensed <;> simp
  · exact hu

theorem AllChannels.keepsLengthEnd {c : ChannelId} (h : s.AllChannels P) (e : execLengthEnd c s = .next t) :
    t.AllChannels P := by
  refine AllChannels.atEvent (fun u hu => ?_) h e
  unfold State.findLength; split
  · rename_i hd; refine AllChannels.advanceStep hP hu c _ (Channel.inMode_on (p := StepMode.hasLength) ?_)
    unfold Channel.lengthDue at hd; revert hd; cases (u.channel c).inMode StepMode.hasLength <;> simp
  · exact hu

theorem AllChannels.keepsHostLimitExpiry {c : ChannelId} (h : s.AllChannels P) (e : execHostLimitExpiry c s = .next t) :
    t.AllChannels P := by
  refine AllChannels.atEvent (fun u hu => ?_) h e
  unfold State.findHostLimit; split
  · exact AllChannels.fault hP hu _ _
  · exact hu

theorem AllChannels.keepsDeadline {c : ChannelId} (h : s.AllChannels P) (e : execDeadline c s = .next t) :
    t.AllChannels P := by
  exact AllChannels.atEvent (fun u hu => AllChannels.findDeadline hP hu c) h e

theorem AllChannels.tick (h : s.AllChannels P) (c : ChannelId) : (s.tick c).AllChannels P := by
  have hc := AllChannels.countTick hP h c
  exact AllChannels.write hc (hP.divRestart _ (hc c))

theorem AllChannels.keepsSpanCounterSaturation {c : ChannelId} (h : s.AllChannels P)
    (e : execSpanCounterSaturation c s = .next t) : t.AllChannels P := by
  refine AllChannels.atEvent (fun u hu => ?_) h e
  unfold State.saturateSpan
  split
  · exact hu
  · split
    · exact AllChannels.tick hP hu c
    · split
      · exact AllChannels.write hu (hP.saturate _ (hu c))
      · exact hu

theorem AllChannels.keepsSenseEdge {c : ChannelId} {sample : Table 3 Level} (h : s.AllChannels P)
    (e : execSenseEdge c sample s = .next t) : t.AllChannels P :=
  AllChannels.atEvent (fun _ hu => AllChannels.sampleSense hP hu c sample) h e

theorem AllChannels.keepsTrip {c : ChannelId} {v : Level} (h : s.AllChannels P) (e : execTrip c v s = .next t) :
    t.AllChannels P := by
  refine AllChannels.atEvent (fun u hu => ?_) h e
  have := AllChannels.write (c := c) hu (hP.trip _ v (hu c))
  unfold State.tripSampled; split
  · exact AllChannels.fault hP this _ _
  · exact this

theorem AllChannels.keepsPeriodStart {c : ChannelId} (h : s.AllChannels P) (e : execPeriodStart c s = .next t) :
    t.AllChannels P := by
  exact AllChannels.atEvent (fun u hu => AllChannels.write hu (hP.period _ (hu c))) h e

omit hP in
theorem AllChannels.keepsPost {q : QueueId} {tl : BitVec 10} (h : s.AllChannels P) (e : execPost q tl s = .next t) :
    t.AllChannels P := by
  refine AllChannels.atEvent (fun u hu => ?_) h e
  unfold State.post; split
  · exact hu
  · exact AllChannels.same hu (fun j => by rw [State.offerQueueNotice_channel])

theorem AllChannels.keepsRelease {q : QueueId} {head : BitVec 10} (h : s.AllChannels P) (e : execRelease q head s = .next t) :
    t.AllChannels P := by
  refine AllChannels.atEvent (fun u hu => ?_) h e
  have moved : (u.withCq q { u.cq q with head := head.toNat }).AllChannels P := hu
  unfold State.release
  dsimp only
  split
  · split
    · exact moved
    · exact AllChannels.forChannels (fun v c hv => AllChannels.offerHeld hP hv q c) moved
  · exact AllChannels.same hu (fun j => State.offerQueueNotice_channel u q .cq .badRelease j)

omit hP in
theorem AllChannels.keepsVectorStatus {w : BitVec 4} (h : s.AllChannels P) (e : execVectorStatus w s = .next t) :
    t.AllChannels P := by
  exact AllChannels.atEvent (f := fun u => u.withVectors { u.vectors with pending := u.vectors.pending &&& ~~~w }) (fun u hu => hu) h e

omit hP in
theorem AllChannels.keepsVectorMask {w : BitVec 4} (h : s.AllChannels P) (e : execVectorMask w s = .next t) :
    t.AllChannels P := by
  exact AllChannels.atEvent (f := fun u => u.withVectors { u.vectors with mask := w }) (fun u hu => hu) h e

omit hP in
theorem AllChannels.keepsAdminRegisterWrite {r : AdminRegister} {value : BitVec 32}
    (h : s.AllChannels P) (e : execAdminRegisterWrite r value s = .next t) :
    t.AllChannels P := by
  refine AllChannels.atEvent (fun u hu => ?_) h e
  unfold State.adminWrite; split <;> exact hu

omit hP in
theorem AllChannels.keepsRegisterWriteIgnored {offset : BitVec 6} {value : BitVec 32}
    (h : s.AllChannels P) (e : execRegisterWriteIgnored offset value s = .next t) :
    t.AllChannels P := by
  unfold execRegisterWriteIgnored at e; split at e
  · exact AllChannels.atEvent (fun u hu => hu) h e
  · cases e

omit hP in
theorem AllChannels.keepsEnable (h : s.AllChannels P) (e : execEnable s = .next t) :
    t.AllChannels P := by
  refine AllChannels.atEvent (fun u hu => ?_) h e
  unfold State.enable; repeat' split
  all_goals exact hu

theorem AllChannels.keepsHalt (h : s.AllChannels P) (e : execHalt s = .next t) :
    t.AllChannels P := by
  refine AllChannels.atEvent (fun u hu => ?_) h e
  unfold State.haltWrite; split
  all_goals first | exact hu | exact AllChannels.beginHalt hP hu

omit hP in
theorem AllChannels.keepsHaltEnd (h : s.AllChannels P) (e : execHaltEnd s = .next t) :
    t.AllChannels P := by
  refine AllChannels.atEvent (fun u hu => ?_) h e
  unfold State.haltEnd; split <;> exact hu

theorem AllChannels.keepsSoftReset {run : Bool} (h : s.AllChannels P) (e : execSoftReset run s = .next t) :
    t.AllChannels P := by
  unfold execSoftReset at e; cases e; split
  · exact h
  · exact AllChannels.resetBlocks hP _

theorem AllChannels.keepsPowerOnReset (e : execPowerOnReset s = .next t) :
    t.AllChannels P := by
  unfold execPowerOnReset at e; cases e; exact AllChannels.resetBlocks hP _

theorem AllChannels.keepsPinReset (e : execPinReset s = .next t) :
    t.AllChannels P := by
  unfold execPinReset at e; cases e; exact AllChannels.resetBlocks hP (s := s) .powerOn

theorem AllChannels.keepsTick {c : ChannelId} (h : s.AllChannels P) (e : execTick c s = .next t) : t.AllChannels P :=
  AllChannels.atEvent (fun _ hu => AllChannels.tick hP hu c) h e

omit hP in
theorem AllChannels.keepsResetPinRelease (h : s.AllChannels P) (e : execResetPinRelease s = .next t) :
    t.AllChannels P := by
  unfold execResetPinRelease at e; cases e; exact h

/-- Every command keeps a property of all channels that their changes keep. -/
theorem AllChannels.keepsExec {i : Instr} (h : s.AllChannels P) (e : exec i s = .next t) : t.AllChannels P := by
  cases i with
  | loadSteps _ _ _ _ _ _ => exact AllChannels.keepsLoadSteps hP h e
  | commitSteps _ _ => exact AllChannels.keepsCommitSteps hP h e
  | start _ _ _ => exact AllChannels.keepsStart hP h e
  | stop _ _ _ _ => exact AllChannels.keepsStop hP h e
  | advance _ _ => exact AllChannels.keepsAdvance hP h e
  | clearFault _ _ => exact AllChannels.keepsClearFault hP h e
  | setDuty _ _ _ => exact AllChannels.keepsSetDuty hP h e
  | readChannel _ _ _ => exact AllChannels.keepsReadChannel h e
  | openSq _ _ _ _ _ _ => exact AllChannels.keepsOpenSq h e
  | closeSq _ _ => exact AllChannels.keepsCloseSq h e
  | openCq _ _ _ _ _ _ _ => exact AllChannels.keepsOpenCq h e
  | closeCq _ _ => exact AllChannels.keepsCloseCq h e
  | setWindow _ _ _ _ _ => exact AllChannels.keepsSetWindow h e
  | setChannel _ _ _ _ _ _ _ _ _ _ => exact AllChannels.keepsSetChannel hP h e
  | cancel _ _ _ => exact AllChannels.keepsCancel h e
  | unknownCommand _ _ => exact AllChannels.keepsUnknownCommand h e
  | cancelRequest _ => exact AllChannels.keepsCancelRequest hP h e
  | fetchStart => exact AllChannels.keepsFetchStart h e
  | fetchReadError => exact AllChannels.keepsFetchReadError h e
  | adminFetchError => exact AllChannels.keepsAdminFetchError hP h e
  | loadRecordArrival _ _ => exact AllChannels.keepsLoadRecordArrival hP h e
  | loadReadBusError _ => exact AllChannels.keepsLoadReadBusError hP h e
  | portBeginTransaction => exact AllChannels.keepsPortBeginTransaction h e
  | snapshotWriteDone _ => exact AllChannels.keepsSnapshotWriteDone h e
  | snapshotWriteError _ => exact AllChannels.keepsSnapshotWriteError h e
  | cqWriteDone _ => exact AllChannels.keepsCqWriteDone h e
  | cqWriteError _ => exact AllChannels.keepsCqWriteError hP h e
  | adminWriteError => exact AllChannels.keepsAdminWriteError hP h e
  | discardedTransactionEnd _ => exact AllChannels.keepsDiscardedTransactionEnd h e
  | coalescingTimerExpiry _ => exact AllChannels.keepsCoalescingTimerExpiry h e
  | blankEnd _ => exact AllChannels.keepsBlankEnd hP h e
  | timeout _ => exact AllChannels.keepsTimeout hP h e
  | delayEnd _ => exact AllChannels.keepsDelayEnd hP h e
  | lengthEnd _ => exact AllChannels.keepsLengthEnd hP h e
  | hostLimitExpiry _ => exact AllChannels.keepsHostLimitExpiry hP h e
  | deadline _ => exact AllChannels.keepsDeadline hP h e
  | spanCounterSaturation _ => exact AllChannels.keepsSpanCounterSaturation hP h e
  | senseEdge _ _ => exact AllChannels.keepsSenseEdge hP h e
  | trip _ _ => exact AllChannels.keepsTrip hP h e
  | periodStart _ => exact AllChannels.keepsPeriodStart hP h e
  | post _ _ => exact AllChannels.keepsPost h e
  | release _ _ => exact AllChannels.keepsRelease hP h e
  | vectorStatus _ => exact AllChannels.keepsVectorStatus h e
  | vectorMask _ => exact AllChannels.keepsVectorMask h e
  | adminRegisterWrite _ _ => exact AllChannels.keepsAdminRegisterWrite h e
  | registerWriteIgnored _ value => exact AllChannels.keepsRegisterWriteIgnored (value := value) h e
  | enable => exact AllChannels.keepsEnable h e
  | halt => exact AllChannels.keepsHalt hP h e
  | haltEnd => exact AllChannels.keepsHaltEnd h e
  | softReset run => exact AllChannels.keepsSoftReset hP (run := run) h e
  | powerOnReset => exact AllChannels.keepsPowerOnReset hP e
  | pinReset => exact AllChannels.keepsPinReset hP e
  | tick _ => exact AllChannels.keepsTick hP h e
  | resetPinRelease => exact AllChannels.keepsResetPinRelease h e

omit hP in
theorem AllChannels.settle (h : s.AllChannels P) : s.settle.AllChannels P :=
  AllChannels.same h fun j => State.settle_channel s j

omit hP in
theorem AllChannels.timebaseClock (h : s.AllChannels P) : s.timebaseClock.AllChannels P := by
  have tt : ∀ (v : State) q, v.AllChannels P → (v.timerTick q).AllChannels P := by
    intro v q hv
    unfold State.timerTick State.expireTimer; dsimp only; repeat' split
    all_goals exact hv
  unfold State.timebaseClock; split
  · exact h
  · generalize List.finRange 8 = l
    have h1 : (s.withVectors { s.vectors with timebase := 0 }).AllChannels P := h
    generalize (s.withVectors { s.vectors with timebase := 0 }) = v at h1
    induction l generalizing v with
    | nil => exact h1
    | cons q r ih => exact ih _ (tt _ _ h1)

theorem AllChannels.dividerClock (h : s.AllChannels P) (c) : (s.dividerClock c).AllChannels P := by
  unfold State.dividerClock; split
  · exact h
  · split
    · exact AllChannels.write h (hP.divider _ _ _ (h c) ‹_› ‹_›)
    · exact AllChannels.findAll hP (AllChannels.settle (AllChannels.countTick hP (AllChannels.write h
        (hP.divider _ _ _ (h c) ‹_› (by unfold Settings.clocksPerTick; exact Nat.two_pow_pos _))) c)) c

theorem AllChannels.clockEvent (h : s.AllChannels P) (e : ClockEvent) : (s.clockEvent e).AllChannels P := by
  cases e with
  | tripSample c =>
    show (State.tripSampled s c).AllChannels P
    unfold State.tripSampled; split
    · exact AllChannels.fault hP h _ _
    · exact h
  | senseSample c => exact AllChannels.sampleSense hP h _ _
  | pwmClock c => exact AllChannels.write h (hP.pwmClock _ (h c))
  | dividerClock c => exact AllChannels.dividerClock hP h c
  | timebase => exact AllChannels.timebaseClock h

theorem AllChannels.keepsClock (h : s.AllChannels P) : s.clock.AllChannels P := by
  unfold State.clock; split
  · exact h
  · generalize orderedBy _ = l
    have h0 : ({ s with choice := s.choice + 1 } : State).AllChannels P := AllChannels.same h fun _ => rfl
    generalize ({ s with choice := s.choice + 1 } : State) = u at h0
    induction l generalizing u with
    | nil => exact h0
    | cons ev rest ih => exact ih _ (AllChannels.clockEvent hP (AllChannels.settle h0) ev)

/-- Every step keeps a property of all channels that their changes keep. -/
theorem AllChannels.keepsStep (h : s.AllChannels P) (e : step s = .next t) : t.AllChannels P := by
  unfold step at e; split at e
  · cases e; exact AllChannels.keepsClock hP h
  · rename_i c rest _; exact AllChannels.keepsExec hP (s := { s with pending := rest }) h e

end Sys2Proof.Machine
end

