-- ==== Sys2Proof/Laws/Dispatch.lean ====
section
/-! SUPPORT. What a command row is once its hypotheses are known: the event on the settled state, and the owner's own work on a record that passes R100. -/

namespace Sys2Proof.Machine

theorem atEvent_of {s : State} {f : State → State} (h : s.resetPin = false) : atEvent f s = .next (f s.settle) := by
  unfold atEvent
  rw [h]
  rfl

theorem atEvent_held {s : State} {f : State → State} (h : s.resetPin = true) : atEvent f s = .next s := by
  unfold atEvent
  rw [h]
  rfl

variable {s u : State} {code : CommandCode} {tag : BitVec 16} {channel : Byte} {k : SlotId}

/-- A record that passes the checks of R100 is handed to its owner. -/
theorem State.Dispatches.dispatch (h : s.Dispatches code tag channel k u) (owner : SlotId → State → State) :
    s.settle.dispatch code tag channel owner = owner k u := by
  obtain ⟨_, hu, hc, f, hf, rfl, rfl, ha⟩ := h
  unfold State.dispatch
  rw [hf]
  dsimp only
  rw [hu, if_neg (by decide), if_neg, if_neg]
  · intro hx
    rw [Bool.and_eq_true] at hx
    have := hc hx.1
    cases h : channelOf channel <;> simp_all
  · intro hx
    rw [Bool.and_eq_true] at hx
    simp [ha hx.1] at hx

/-- A command row whose record passes the checks of R100 answers its owner's work. -/
theorem State.Dispatches.answer (h : s.Dispatches code tag channel k u) (owner : SlotId → State → State) :
    atEvent (fun t => t.dispatch code tag channel owner) s = .next (owner k u) := by
  rw [atEvent_of h.1, h.dispatch]

theorem onChannel_of {c : ChannelId} {owner : ChannelId → SlotId → State → State} (h : channelOf channel = some c) :
    onChannel channel owner k s = owner c k s := by
  unfold onChannel
  rw [h]

/-- What a command row is when no fetch read returns. -/
theorem State.dispatch_none (h : s.returning = none) (owner : SlotId → State → State) :
    s.dispatch code tag channel owner = s.dropDiscardedFetch := by
  unfold State.dispatch
  rw [h]

end Sys2Proof.Machine
end

