-- ==== Sys2Proof/Laws/Edges.lean ====
section
/-! SUPPORT. What a sample of the sense lines and the edges it makes can do, in the terms of the statements (R28, R72, R74, R75), and a tick as what it finds followed by what it counts. -/

namespace Sys2Proof.Machine

/-- An edge is made exactly where the sample differs and the run count it raises is the run length (R72). -/
theorem Channel.makesEdge_iff (ch : Channel) (sample : Table 3 Level) (l : LineId) :
    ch.sense.makesEdge ch.settings.runLength sample l = true ↔ ch.makesEdge sample l := by
  simp [Sense.makesEdge, Channel.makesEdge, Settings.runLength]

theorem Channel.mem_edgesOf (ch : Channel) (sample : Table 3 Level) (l : LineId) :
    l ∈ ch.edgesOf sample ↔ ch.makesEdge sample l := by
  simp [Channel.edgesOf, Channel.makesEdge_iff]

/-- Every line of the front end stands after a sample as R72 says. -/
theorem Channel.sampled_after (ch : Channel) (sample : Table 3 Level) :
    ch.sense.After (ch.sampled sample).sense (2 ^ ch.settings.filter) sample := by
  have accepted : ∀ l, (ch.sampled sample).sense.accepted.read l =
      if ch.sense.makesEdge ch.settings.runLength sample l then sample.read l else ch.sense.accepted.read l := by
    intro l; show Table.read (Vector.ofFn _) l = _; unfold Table.read; rw [Vector.getElem_ofFn]
  have runs : ∀ l, (ch.sampled sample).sense.runs.read l =
      if sample.read l == ch.sense.accepted.read l || ch.sense.makesEdge ch.settings.runLength sample l then 0
      else ch.sense.runs.read l + 1 := by
    intro l; show Table.read (Vector.ofFn _) l = _; unfold Table.read; rw [Vector.getElem_ofFn]
  refine ⟨rfl, rfl, fun l h => ?_, fun l h k => ?_, fun l h k => ?_⟩ <;> rw [accepted, runs]
  · simp [h]
  · simp [(ch.makesEdge_iff sample l).2 ⟨h, k⟩]
  · have : ch.sense.makesEdge ch.settings.runLength sample l = false := by
      simpa using (ch.makesEdge_iff sample l).not.2 fun m => k m.2
    simp [this, h]

/-- The rule R72 fixes the front end after a sample. -/
theorem Sense.After.unique {x a b : Sense} {n : Nat} {sample : Table 3 Level} (h : x.After a n sample) (k : x.After b n sample) :
    a = b := by
  have lines : ∀ l, a.accepted.read l = b.accepted.read l ∧ a.runs.read l = b.runs.read l := by
    intro l
    by_cases h1 : sample.read l = x.accepted.read l
    · simp [h.equal l h1, k.equal l h1]
    · by_cases h2 : x.runs.read l + 1 = n
      · simp [h.edge l h1 h2, k.edge l h1 h2]
      · simp [h.differs l h1 h2, k.differs l h1 h2]
  have pins : a.pins = b.pins := h.pins.trans k.pins.symm
  have trip : a.tripLine = b.tripLine := h.tripLine.trans k.tripLine.symm
  have accepted := Table.ext_read fun i => (lines i).1
  have runs := Table.ext_read fun i => (lines i).2
  cases a; cases b; simp_all

/-- What a channel takes is what its current step awaits (R28, R74). -/
theorem Channel.takes_iff (ch : Channel) (l : LineId) (v : Level) : ch.takes l v = true ↔ ch.awaits l v := by
  unfold Channel.takes Channel.awaits Channel.current
  constructor
  · intro h
    simp only [Bool.and_eq_true, Bool.not_eq_true'] at h
    obtain ⟨⟨⟨h1, h2⟩, h3⟩, h4⟩ := h
    refine ⟨h1, h2, h3, ?_⟩
    split at h4
    · rename_i r hr
      split at h4
      · rename_i l' e b d t hm
        simp only [Bool.and_eq_true, beq_iff_eq] at h4
        obtain ⟨rfl, h5⟩ := h4
        refine ⟨r, e, b, d, t, hr, hm, ?_⟩
        cases e <;> cases v <;> simp [EdgeKind.matches] at h5 ⊢
      all_goals cases h4
    · cases h4
  · rintro ⟨h1, h2, h3, r, e, b, d, t, hr, hm, h⟩
    rw [h1, h2, h3, hr]; dsimp only; rw [hm]
    rcases h with rfl | ⟨rfl, rfl⟩ | ⟨rfl, rfl⟩ <;> simp [EdgeKind.matches]

/-- A step watches one line (R75). -/
theorem Channel.awaits_line {ch : Channel} {l m : LineId} {v w : Level} (h : ch.awaits l v) (k : ch.awaits m w) : l = m := by
  obtain ⟨_, _, _, r, e, b, d, t, hr, hm, _⟩ := h
  obtain ⟨_, _, _, r', e', b', d', t', hr', hm', _⟩ := k
  rw [hr] at hr'; cases hr'; rw [hm] at hm'; cases hm'; rfl

theorem Channel.taken_eq_none (ch : Channel) (edges : List LineId) :
    ch.taken edges = none ↔ ∀ l ∈ edges, ¬ch.awaits l (ch.sense.accepted.read l) := by
  simp [Channel.taken, ← Channel.takes_iff]

theorem Channel.taken_eq_some (ch : Channel) {edges : List LineId} {l : LineId} (h : l ∈ edges)
    (k : ch.awaits l (ch.sense.accepted.read l)) : ch.taken edges = some l := by
  cases e : ch.taken edges with
  | none => exact ((ch.taken_eq_none edges).1 e l h k).elim
  | some m =>
    have m_awaits := (ch.takes_iff m _).1 (List.find?_some (p := fun i => ch.takes i (ch.sense.accepted.read i)) e)
    rw [Channel.awaits_line k m_awaits]

/-- A tick is what it finds, and then the counts of `Channel.ticked`. -/
theorem State.tick_eq (s : State) (c : ChannelId) :
    s.tick c = (s.findAll c).withChannel c ((s.findAll c).channel c).ticked := by
  unfold State.tick State.countTick; dsimp only
  generalize s.findAll c = t
  unfold Channel.ticked
  split
  · simp [State.withChannel, State.channel, Channel.dividerRestarted, Channel.countTick, nextTimer, nextSpan]
    congr 2
    cases (t.channels.read c).seq.state <;> simp [ChannelState.tick, Graceful.tick]
    split <;> rfl
  · rfl

end Sys2Proof.Machine
end

