-- ==== Sys2Proof/Laws/PerInstr.lean ====
section
/-! SUPPORT. The statements made of every row of the table as syntax, one lemma for each constructor. -/

namespace Sys2Proof.Laws

/-- A row is spelled in one way at most: as a fetched command record (R186) or as a register write (R188), never as both. -/
def SingleSource.Statement (i : Instr) : Prop := recordOfCommand i = none ∨ registerWordOf i = none

theorem SingleSource.loadSteps (tag : BitVec 16) (channel first count : Byte) (clearRest : Bool) (source : Addr) :
    SingleSource.Statement (.loadSteps tag channel first count clearRest source) := .inr rfl

theorem SingleSource.commitSteps (tag : BitVec 16) (channel : Byte) :
    SingleSource.Statement (.commitSteps tag channel) := .inr rfl

theorem SingleSource.start (tag : BitVec 16) (channel : Byte) (reference : BitVec 16) :
    SingleSource.Statement (.start tag channel reference) := .inr rfl

theorem SingleSource.stop (tag : BitVec 16) (channel mode : Byte) (deadline : BitVec 16) :
    SingleSource.Statement (.stop tag channel mode deadline) := .inr rfl

theorem SingleSource.advance (tag : BitVec 16) (channel : Byte) :
    SingleSource.Statement (.advance tag channel) := .inr rfl

theorem SingleSource.clearFault (tag : BitVec 16) (channel : Byte) :
    SingleSource.Statement (.clearFault tag channel) := .inr rfl

theorem SingleSource.setDuty (tag : BitVec 16) (channel : Byte) (duty : BitVec 16) :
    SingleSource.Statement (.setDuty tag channel duty) := .inr rfl

theorem SingleSource.readChannel (tag : BitVec 16) (channel : Byte) (destination : Addr) :
    SingleSource.Statement (.readChannel tag channel destination) := .inr rfl

theorem SingleSource.openSq (tag : BitVec 16) (queue boundCq priority : Byte) (size : BitVec 16) (base : Addr) :
    SingleSource.Statement (.openSq tag queue boundCq priority size base) := .inr rfl

theorem SingleSource.closeSq (tag : BitVec 16) (queue : Byte) :
    SingleSource.Statement (.closeSq tag queue) := .inr rfl

theorem SingleSource.openCq (tag : BitVec 16) (queue vector threshold time : Byte) (size : BitVec 16) (base : Addr) :
    SingleSource.Statement (.openCq tag queue vector threshold time size base) := .inr rfl

theorem SingleSource.closeCq (tag : BitVec 16) (queue : Byte) :
    SingleSource.Statement (.closeCq tag queue) := .inr rfl

theorem SingleSource.setWindow (tag : BitVec 16) (number rights : Byte) (length : BitVec 32) (base : Addr) :
    SingleSource.Statement (.setWindow tag number rights length base) := .inr rfl

theorem SingleSource.setChannel (tag : BitVec 16) (channel prescale shift forcedLimit filter tripLevel reportCq : Byte) (minInterval period : BitVec 16) :
    SingleSource.Statement (.setChannel tag channel prescale shift forcedLimit filter tripLevel reportCq minInterval period) := .inr rfl

theorem SingleSource.cancel (tag : BitVec 16) (queue : Byte) (target : BitVec 16) :
    SingleSource.Statement (.cancel tag queue target) := .inr rfl

theorem SingleSource.unknownCommand (tag : BitVec 16) (code : Byte) :
    SingleSource.Statement (.unknownCommand tag code) := .inr rfl

theorem SingleSource.cancelRequest (canceller : SlotId) :
    SingleSource.Statement (.cancelRequest canceller) := .inl rfl

theorem SingleSource.fetchStart : SingleSource.Statement (.fetchStart) := .inl rfl

theorem SingleSource.fetchReadError : SingleSource.Statement (.fetchReadError) := .inl rfl

theorem SingleSource.adminFetchError : SingleSource.Statement (.adminFetchError) := .inl rfl

theorem SingleSource.loadRecordArrival (c : ChannelId) (bytes : Table 16 Byte) :
    SingleSource.Statement (.loadRecordArrival c bytes) := .inl rfl

theorem SingleSource.loadReadBusError (c : ChannelId) : SingleSource.Statement (.loadReadBusError c) := .inl rfl

theorem SingleSource.portBeginTransaction : SingleSource.Statement (.portBeginTransaction) := .inl rfl

theorem SingleSource.snapshotWriteDone (k : SlotId) : SingleSource.Statement (.snapshotWriteDone k) := .inl rfl

theorem SingleSource.snapshotWriteError (k : SlotId) : SingleSource.Statement (.snapshotWriteError k) := .inl rfl

theorem SingleSource.cqWriteDone (q : QueueId) : SingleSource.Statement (.cqWriteDone q) := .inl rfl

theorem SingleSource.cqWriteError (q : QueueId) : SingleSource.Statement (.cqWriteError q) := .inl rfl

theorem SingleSource.adminWriteError : SingleSource.Statement (.adminWriteError) := .inl rfl

theorem SingleSource.discardedTransactionEnd (r : Requester) :
    SingleSource.Statement (.discardedTransactionEnd r) := .inl rfl

theorem SingleSource.coalescingTimerExpiry (q : QueueId) :
    SingleSource.Statement (.coalescingTimerExpiry q) := .inl rfl

theorem SingleSource.blankEnd (c : ChannelId) : SingleSource.Statement (.blankEnd c) := .inl rfl

theorem SingleSource.timeout (c : ChannelId) : SingleSource.Statement (.timeout c) := .inl rfl

theorem SingleSource.delayEnd (c : ChannelId) : SingleSource.Statement (.delayEnd c) := .inl rfl

theorem SingleSource.lengthEnd (c : ChannelId) : SingleSource.Statement (.lengthEnd c) := .inl rfl

theorem SingleSource.hostLimitExpiry (c : ChannelId) : SingleSource.Statement (.hostLimitExpiry c) := .inl rfl

theorem SingleSource.deadline (c : ChannelId) : SingleSource.Statement (.deadline c) := .inl rfl

theorem SingleSource.spanCounterSaturation (c : ChannelId) :
    SingleSource.Statement (.spanCounterSaturation c) := .inl rfl

theorem SingleSource.senseEdge (c : ChannelId) (sample : Table 3 Level) :
    SingleSource.Statement (.senseEdge c sample) := .inl rfl

theorem SingleSource.trip (c : ChannelId) (sample : Level) : SingleSource.Statement (.trip c sample) := .inl rfl

theorem SingleSource.periodStart (c : ChannelId) : SingleSource.Statement (.periodStart c) := .inl rfl

theorem SingleSource.post (q : QueueId) (tail : BitVec 10) : SingleSource.Statement (.post q tail) := .inl rfl

theorem SingleSource.release (q : QueueId) (head : BitVec 10) : SingleSource.Statement (.release q head) := .inl rfl

theorem SingleSource.vectorStatus (clear : BitVec 4) : SingleSource.Statement (.vectorStatus clear) := .inl rfl

theorem SingleSource.vectorMask (mask : BitVec 4) : SingleSource.Statement (.vectorMask mask) := .inl rfl

theorem SingleSource.adminRegisterWrite (r : AdminRegister) (value : BitVec 32) :
    SingleSource.Statement (.adminRegisterWrite r value) := .inl rfl

theorem SingleSource.registerWriteIgnored (offset : BitVec 6) (value : BitVec 32) :
    SingleSource.Statement (.registerWriteIgnored offset value) := .inl rfl

theorem SingleSource.enable : SingleSource.Statement (.enable) := .inl rfl

theorem SingleSource.halt : SingleSource.Statement (.halt) := .inl rfl

theorem SingleSource.haltEnd : SingleSource.Statement (.haltEnd) := .inl rfl

theorem SingleSource.softReset (run : Bool) : SingleSource.Statement (.softReset run) := .inl rfl

theorem SingleSource.powerOnReset : SingleSource.Statement (.powerOnReset) := .inl rfl

theorem SingleSource.pinReset : SingleSource.Statement (.pinReset) := .inl rfl

theorem SingleSource.tick (c : ChannelId) : SingleSource.Statement (.tick c) := .inl rfl

theorem SingleSource.resetPinRelease : SingleSource.Statement (.resetPinRelease) := .inl rfl

end Sys2Proof.Laws
end

