-- ==== Sys2Proof/Laws/Port.lean ====
section
/-! SUPPORT. What each shared operation does to the begun set of the bus master port: only the beginning and the end of a transaction, and the engine, change it. -/

namespace Sys2Proof.Machine

variable (s : State)

@[simp] theorem State.hand_begun (r : Requester) (a : Addr) : (s.hand r a).port.begun = s.port.begun := rfl

theorem State.dropBegun_begun (r : Requester) :
    (s.dropBegun r).port.begun = s.port.begun.eraseP fun t => t.requester == r := rfl

@[simp] theorem State.dropBegun_requests (r : Requester) : (s.dropBegun r).port.requests = s.port.requests := rfl

@[simp] theorem State.handCqWrite_begun (q : QueueId) : (s.handCqWrite q).port.begun = s.port.begun := by
  unfold State.handCqWrite
  split <;> rfl

@[simp] theorem State.appendRecord_begun (q : QueueId) (r : CqRecord) :
    (s.appendRecord q r).port.begun = s.port.begun := by
  simp [State.appendRecord]

@[simp] theorem State.offerQueueNotice_begun (q : QueueId) (k : QueueKind) (n : NoticeCause) :
    (s.offerQueueNotice q k n).port.begun = s.port.begun := by
  unfold State.offerQueueNotice
  split <;> simp

@[simp] theorem State.offerReport_begun (c : ChannelId) (r : Report) :
    (s.offerReport c r).port.begun = s.port.begun := by
  unfold State.offerReport
  repeat' split
  all_goals simp

@[simp] theorem State.offerChannelNotice_begun (c : ChannelId) (k : FaultCause) :
    (s.offerChannelNotice c k).port.begun = s.port.begun := by
  unfold State.offerChannelNotice
  repeat' split
  all_goals simp

@[simp] theorem State.offerHeld_begun (q : QueueId) (c : ChannelId) :
    (s.offerHeld q c).port.begun = s.port.begun := by
  unfold State.offerHeld
  repeat' split
  all_goals simp

@[simp] theorem State.takeCompletion_begun (w : Working) (t : Status) (d : Nat) :
    (s.takeCompletion w t d).port.begun = s.port.begun := by
  unfold State.takeCompletion
  dsimp only
  split <;> simp

@[simp] theorem State.finishSlot_begun (k : SlotId) (t : Status) (d : Nat) :
    (s.finishSlot k t d).port.begun = s.port.begun := by
  unfold State.finishSlot
  split <;> simp

@[simp] theorem State.closeIfDrained_begun (q : QueueId) : (s.closeIfDrained q).port.begun = s.port.begun := by
  unfold State.closeIfDrained
  repeat' split
  all_goals simp

@[simp] theorem State.complete_begun (k : SlotId) (t : Status) (d : Nat) :
    (s.complete k t d).port.begun = s.port.begun := by
  unfold State.complete
  split <;> simp

@[simp] theorem State.issueLoadRead_begun (c : ChannelId) : (s.issueLoadRead c).port.begun = s.port.begun := by
  unfold State.issueLoadRead
  repeat' split
  all_goals simp

@[simp] theorem State.endRun_begun (c : ChannelId) : (s.endRun c).port.begun = s.port.begun := by
  unfold State.endRun
  dsimp only
  split <;> simp

@[simp] theorem State.faultChannel_begun (c : ChannelId) (k : FaultCause) :
    (s.faultChannel c k).port.begun = s.port.begun := by
  unfold State.faultChannel
  dsimp only
  split <;> simp

@[simp] theorem State.completeStop_begun (g : Option Graceful) (t : Status) :
    (s.completeStop g t).port.begun = s.port.begun := by
  unfold State.completeStop
  split <;> simp

@[simp] theorem State.faultEntry_begun (c : ChannelId) (k : FaultCause) :
    (s.faultEntry c k).port.begun = s.port.begun := by
  unfold State.faultEntry
  split <;> simp

@[simp] theorem State.leaveStep_begun (c : ChannelId) (r : StepRecord) :
    (s.leaveStep c r).port.begun = s.port.begun := by
  unfold State.leaveStep
  dsimp only
  split <;> simp

@[simp] theorem State.advanceStep_begun (c : ChannelId) (k : AdvanceCause) :
    (s.advanceStep c k).port.begun = s.port.begun := by
  unfold State.advanceStep
  dsimp only
  repeat' split
  all_goals simp

@[simp] theorem State.takeEdge_begun (c : ChannelId) : (s.takeEdge c).port.begun = s.port.begun := by
  unfold State.takeEdge
  dsimp only
  repeat' split
  all_goals simp

@[simp] theorem State.offerEdges_begun (c : ChannelId) (n : Nat) (edges : List LineId) :
    (State.offerEdges c n edges s).port.begun = s.port.begun := by
  induction n generalizing s edges with
  | zero => rfl
  | succ n ih =>
    unfold State.offerEdges
    split <;> simp [ih]

@[simp] theorem State.sampleSense_begun (c : ChannelId) (sample : Table 3 Level) :
    (s.sampleSense c sample).port.begun = s.port.begun := by
  unfold State.sampleSense
  simp

@[simp] theorem State.forcedAdvance_begun (c : ChannelId) : (s.forcedAdvance c).port.begun = s.port.begun := by
  unfold State.forcedAdvance
  dsimp only
  split <;> simp

@[simp] theorem State.findBlank_begun (c : ChannelId) : (s.findBlank c).port.begun = s.port.begun := by
  unfold State.findBlank
  dsimp only
  split <;> simp

@[simp] theorem State.findWindow_begun (c : ChannelId) : (s.findWindow c).port.begun = s.port.begun := by
  unfold State.findWindow
  repeat' split
  all_goals simp

@[simp] theorem State.findDeadline_begun (c : ChannelId) : (s.findDeadline c).port.begun = s.port.begun := by
  unfold State.findDeadline
  split <;> simp

@[simp] theorem State.findAll_begun (c : ChannelId) : (s.findAll c).port.begun = s.port.begun := by
  unfold State.findAll
  dsimp only
  repeat' split
  all_goals simp

@[simp] theorem State.countTick_begun (c : ChannelId) : (s.countTick c).port.begun = s.port.begun := by
  unfold State.countTick
  dsimp only
  split <;> simp

/-- A sweep over the channels leaves the begun set when each channel's operation does. -/
theorem State.forChannels_begun (f : State → ChannelId → State)
    (hf : ∀ (t : State) (c : ChannelId), (f t c).port.begun = t.port.begun) :
    (s.forChannels f).port.begun = s.port.begun := by
  have all : ∀ (l : List ChannelId) (t : State), (l.foldl f t).port.begun = t.port.begun := by
    intro l
    induction l with
    | nil => exact fun t => rfl
    | cons c rest ih => exact fun t => by rw [List.foldl_cons, ih, hf]
  exact all _ s

@[simp] theorem State.endHaltIfDone_port : s.endHaltIfDone.port = s.port := by
  unfold State.endHaltIfDone
  split <;> rfl

@[simp] theorem State.serve_port (q : QueueId) : (s.serve q).port = s.port := by
  unfold State.serve
  split <;> rfl

@[simp] theorem State.startFetch_begun : s.startFetch.port.begun = s.port.begun := by
  unfold State.startFetch State.startFetchFrom
  repeat' split
  all_goals simp

/-- A beginning keeps the bound of R160. -/
theorem State.beginTransaction_bound (h : s.port.begun.length ≤ 4) : s.beginTransaction.port.begun.length ≤ 4 := by
  unfold State.beginTransaction
  repeat' split
  all_goals first | exact h | (simp; omega)

/-- Settling keeps the bound of R160. -/
theorem State.settle_bound (h : s.port.begun.length ≤ 4) : s.settle.port.begun.length ≤ 4 := by
  unfold State.settle
  exact State.beginTransaction_bound _ (State.beginTransaction_bound _ (State.beginTransaction_bound _
    (State.beginTransaction_bound _ (by simpa using h))))

end Sys2Proof.Machine
end

