-- ==== Sys2Proof/Laws/Terms.lean ====
section
/-! SUPPORT. The shared operations on the port, the lists of the completion queues and the end of a halt, in the terms of the statements. -/

namespace Sys2Proof.Machine

variable (s : State)

theorem State.hand_eq (r : Requester) (a : Addr) : s.hand r a = s.handed r a := rfl

theorem State.dropBegun_eq (r : Requester) : s.dropBegun r = s.ended r := rfl

theorem State.endHalt_eq : s.endHalt = s.haltEnded := rfl

theorem State.handCqWrite_eq (q : QueueId) : s.handCqWrite q = s.writeHanded q := by
  unfold State.handCqWrite State.writeHanded
  simp only [Bool.and_eq_true, bne_iff_ne, ne_eq, beq_iff_eq, Bool.not_eq_true', List.isEmpty_eq_false_iff, and_assoc]
  rfl

theorem State.appendRecord_eq (q : QueueId) (r : CqRecord) :
    s.appendRecord q r = (s.withCq q { s.cq q with list := (s.cq q).list ++ [r] }).writeHanded q :=
  State.handCqWrite_eq _ _

theorem State.endHaltIfDone_eq :
    s.endHaltIfDone = if s.engine.state = .halting ∧ s.port.begun = [] then s.haltEnded else s := by
  unfold State.endHaltIfDone
  simp only [Bool.and_eq_true, beq_iff_eq, List.isEmpty_iff]
  rfl

theorem State.endDiscarded_eq (r : Requester) : s.endDiscarded r = s.endedUnused r :=
  State.endHaltIfDone_eq _

/-- A row that finds no fetch read to return or to fail ends the one begun fetch read whose command was discarded. -/
theorem State.dropDiscardedFetch_eq (q : QueueId) (hq : s.port.hasDiscarded (.fetch q) = true)
    (h : ∀ p, p ≠ q → s.port.hasDiscarded (.fetch p) = false) : s.dropDiscardedFetch = s.endedUnused (.fetch q) := by
  have found : (List.finRange 8).find? (fun p => s.port.hasDiscarded (.fetch p)) = some q := by
    cases hf : (List.finRange 8).find? (fun p => s.port.hasDiscarded (.fetch p)) with
    | none =>
      have := List.find?_eq_none.1 hf q (List.mem_finRange q)
      exact absurd hq this
    | some p =>
      by_cases e : p = q
      · rw [e]
      · have := List.find?_some hf
        rw [h p e] at this
        cases this
  unfold State.dropDiscardedFetch
  rw [found]
  exact State.endDiscarded_eq _ _

theorem State.dropDiscardedFetch_none (h : ∀ q, s.port.hasDiscarded (.fetch q) = false) : s.dropDiscardedFetch = s := by
  have found : (List.finRange 8).find? (fun p => s.port.hasDiscarded (.fetch p)) = none := by
    simp [h]
  unfold State.dropDiscardedFetch
  rw [found]

end Sys2Proof.Machine
end

