-- ==== Sys2Proof/Tests/Slice0.lean ====
section
/-! SUPPORT. Tests on fixed values: ill-formed terms refused, the spec's worked examples, one or two steps of each command, and states that meet the hypotheses of the statements. -/

namespace Sys2Proof.Tests

open Sys2Proof Sys2Proof.Machine

set_option Elab.async false

/-! ### States the tests start from -/

/-- The state a command answers, or the state after reset where it stops. -/
def after (i : Instr) (s : State) : State :=
  match exec i s with
  | .next t => t
  | .fault _ | .refused _ => .reset

/-- Commands carried out one after another. -/
def afterAll (l : List Instr) (s : State) : State := l.foldl (fun s i => after i s) s

/-- Sixteen bytes, those not given being 0. -/
def bytes16 (l : List Byte) : Table 16 Byte := Vector.ofFn fun i => l.getD i.val 0

/-- A transaction that has begun and was let through. -/
def begunBy (r : Requester) : Transaction :=
  { requester := r, address := 0x2000, bytes := [], refused := false, discarded := false }

def openSqAt (q : QueueId) (base : Addr) : SqContext :=
  { state := .opened, base := base, size := 32, head := 0, tail := 0, boundCq := some q,
    priority := if q = 0 then .admin else .level 1 }

def openCqAt (base : Addr) (vector : Option (Fin 4)) : CqContext :=
  { CqContext.reset with state := .opened, base := base, size := 64, vector := vector }

/-- An enabled part: SQ0, CQ0, SQ1 and CQ1 open, and window 2 over the I/O rings and the command data. -/
def enabled : State :=
  { State.reset with
    engine := { Engine.reset .powerOn with state := .running },
    sqs := (State.reset.sqs.write 0 (openSqAt 0 0x1000)).write 1 (openSqAt 1 0x10000),
    cqs := (State.reset.cqs.write 0 (openCqAt 0x3000 (some 0))).write 1 (openCqAt 0x10800 (some 1)),
    windows := State.reset.windows.write 2 { base := 0x10000, length := 0x10000, grantsRead := true, grantsWrite := true } }

/-- The part with a fetch read of SQ0 or SQ1 begun, its slot 3 FETCHING. -/
def fetchingFrom (q : QueueId) (s : State) : State :=
  { s with
    slots := s.slots.write 3 (.fetching 7 q q), nextAge := 8, fetch := some { sq := q, index := 0, slot := 3 },
    sqs := s.sqs.write q { s.sqs.read q with tail := 1 },
    cqs := s.cqs.write q { s.cqs.read q with reserved := (s.cqs.read q).reserved + 1 },
    port := { s.port with begun := s.port.begun ++ [begunBy (.fetch q)] } }

/-- A command in flight from SQ1 in slot 5. -/
def workingOf (code : CommandCode) : Working :=
  { age := 2, sq := 1, cq := 1, code := code, tag := 21, channel := 0, owner := code.owner }

def withWorking (code : CommandCode) (s : State) : State :=
  { s with
    slots := s.slots.write 5 (.working (workingOf code)), nextAge := 3,
    cqs := s.cqs.write 1 { s.cqs.read 1 with reserved := (s.cqs.read 1).reserved + 1 } }

def withBegun (r : Requester) (s : State) : State := { s with port := { s.port with begun := s.port.begun ++ [begunBy r] } }

def withC0 (ch : Channel) (s : State) : State := { s with channels := s.channels.write 0 ch }

def withEngine (e : EngineState) (s : State) : State := { s with engine := { s.engine with state := e } }

def timedStep : StepRecord :=
  { mode := .timed 3, legs := { a := .upperPwm, b := .lowerOn, c := .float }, next := 1, report := true, seed := false,
    mark := false, branch := none, duty := none }

/-- The sensed step of the example of section 2.4.1, its next set by the test. -/
def sensedStep (next : StepIx) : StepRecord :=
  { timedStep with mode := .sensed 1 .falling 64 96 96, next := next }

def hostedStep : StepRecord := { timedStep with mode := .hosted 5, next := 0 }

def markStep : StepRecord := { timedStep with next := 0, mark := true }

def bankOf (a b : StepRecord) : Bank := ((Table.fill 16 none).write 0 (some a)).write 1 (some b)

/-- A channel in IDLE that reports to CQ1, its active bank a complete table of two steps. -/
def readyChannel (a b : StepRecord) : Channel :=
  { Channel.reset (Table.fill 3 .low) .low with
    store := { banks := (Table.fill 2 (Table.fill 16 none)).write 0 (bankOf a b), active := 0, activeValid := true, standby := .empty },
    settings := { Settings.reset with reportCq := some 1 } }

/-- The same channel started at reference 800 and put on step `i`. -/
def runningChannel (a b : StepRecord) (i : StepIx) : Channel := ((readyChannel a b).started 800).enter i

/-- A running channel whose standby bank waits for a mark, its COMMIT_STEPS in slot 5. -/
def swapping (ch : Channel) : Channel :=
  { ch with store := { ch.store with banks := ch.store.banks.write 1 (bankOf (sensedStep 1) markStep), standby := .swapPending 5 } }

/-- A running channel with a graceful STOP in slot 5. -/
def stoppingChannel (ch : Channel) (deadline count : Nat) : Channel :=
  { ch with seq := { ch.seq with state := .stopping { deadline := deadline, count := count, slot := 5 } } }

def atTimer (n : Nat) (ch : Channel) : Channel := { ch with est := { ch.est with stepTimer := n } }

/-- The channel with a load of two records in flight in slot 5, `n` of them buffered. -/
def loadingChannel (buffer : List StepRecord) : Channel :=
  (readyChannel timedStep markStep).withStandby (.loading
    { slot := 5, first := 4, count := 2, clearRest := true, source := 0x12000, prior := .empty, buffer := buffer })

/-- A fetched record of SQ0 that passes the checks of R100 and is brought to its owner. -/
theorem dispatches_from_sq0 {s : State} {code : CommandCode} (tag : BitVec 16) (channel : Byte) (hp : s.resetPin = false)
    (hs : s.settle.returning = some { sq := 0, index := 0, slot := 3 }) (hu : code.isUnknown = false)
    (hc : code.readsChannel = true → (channelOf channel).isSome = true) :
    s.Dispatches code tag channel 3 (s.settle.takeRecord { sq := 0, index := 0, slot := 3 } code tag channel) :=
  ⟨hp, hu, hc, _, hs, rfl, rfl, fun _ => rfl⟩

/-- The state the owner of a record of SQ0 finds. -/
def owned (code : CommandCode) (channel : Byte) (s : State) : State :=
  (fetchingFrom 0 s).settle.takeRecord { sq := 0, index := 0, slot := 3 } code 9 channel

/-! ### Ill-formed terms are refused (WellFormed) -/

theorem test_known_code_is_no_unknown_command :
    (Instr.unknownCommand 9 0x10).wellFormed = false ∧ exec (.unknownCommand 9 0x10) State.reset = .fault .illFormed := ⟨by decide, rfl⟩

theorem test_cq0_write_error_belongs_to_admin_row :
    (Instr.cqWriteError 0).wellFormed = false ∧ exec (.cqWriteError 0) State.reset = .fault .illFormed := ⟨by decide, rfl⟩

theorem test_post_offset_is_not_ignored :
    (Instr.registerWriteIgnored 0x1C 0).wellFormed = false ∧
      exec (.registerWriteIgnored 0x1C 0) State.reset = .fault .illFormed := ⟨by decide, rfl⟩

theorem test_unaligned_offset_is_no_register_write :
    (Instr.registerWriteIgnored 0x2D 0).wellFormed = false ∧ registerWrite 0x2D 0 = none := by decide

/-! ### Formats: the spec's worked bytes and words (chapter 11) -/

/-- The example of R185. -/
def exampleRecord : Table 16 Byte := bytes16 [0x08, 0x03, 0x02, 0x00, 0x04, 0, 0, 0, 0, 0, 0, 0, 0x05, 0x40, 0x60, 0x60]

theorem test_step_record_example : stepRecordOf exampleRecord = some
    { mode := .sensed 1 .falling 64 96 96, legs := { a := .upperPwm, b := .lowerOn, c := .float }, next := 4,
      report := true, seed := false, mark := false, branch := none, duty := none } := by decide

/-- Step 6 of section 12.2: SCALED, factor 64, next 7, branch to 1 with count 2, SEED and REPORT; step 0's override of 150. -/
theorem test_step_record_branch_and_override :
    stepRecordOf (bytes16 [0xDA, 0, 2, 3, 7, 1, 2, 0, 150, 0, 0, 0, 64]) = some
      { mode := .scaled 64, legs := { a := .float, b := .lowerOn, c := .upperPwm }, next := 7, report := true, seed := true,
        mark := false, branch := some { target := 1, count := 2 }, duty := some 150 } := by decide

/-- Failures of R6 at their boundaries: mode 4, timeout 63, duration 0, override 4097. -/
theorem test_step_record_failures :
    stepRecordOf (bytes16 [4]) = none ∧ stepRecordOf (bytes16 [0, 0, 0, 0, 0, 0, 0, 0, 0, 0, 0, 0, 0, 0, 0, 63]) = none ∧
      stepRecordOf (bytes16 [1]) = none ∧ stepRecordOf (bytes16 [0x83, 0, 0, 0, 0, 0, 0, 0, 1, 16]) = none ∧
      (stepRecordOf (bytes16 [0x83, 0, 0, 0, 0, 0, 0, 0, 0, 16])).isSome = true := by decide

/-- The examples of R188. -/
theorem test_register_write_examples :
    registerWrite 0x1C 0x00050002 = some (.post 2 5) ∧ registerWrite 0x20 0x012C0001 = some (.release 1 300) ∧
      registerWrite 0x18 0x00800040 = some (.adminRegisterWrite .sizes 0x00800040) ∧
      registerWrite 0x00 1 = some .enable ∧ registerWrite 0x00 0 = some .halt ∧ registerWrite 0x00 3 = some (.softReset true) ∧
      registerWrite 0x1C 0x00050008 = some (.post 0 5) ∧ registerWrite 0x04 7 = some (.registerWriteIgnored 0x04 7) := by decide

/-- Command records written out from R186: LOAD_STEPS C0 of section 12.1.3, STOP AT_MARK with deadline 300, and code 0. -/
theorem test_command_records :
    commandOfRecord (Vector.ofFn fun i : Fin 32 =>
      [0x10, 0x01, 0x15, 0, 0, 0, 0, 0, 0x00, 0x10, 0x00, 0x20, 0, 0, 0, 0, 0, 13].getD i.val (0 : Byte)) =
        .loadSteps 21 0 0 13 true 0x20001000 ∧
    commandOfRecord (Vector.ofFn fun i : Fin 32 =>
      [0x13, 0, 0x02, 0x01, 3, 0, 0, 0, 0, 0, 0, 0, 0, 0, 0, 0, 1, 0, 0x2C, 0x01].getD i.val (0 : Byte)) =
        .stop 0x0102 3 1 300 ∧
    commandOfRecord (Table.fill 32 0) = .unknownCommand 0 0 := by decide

/-- A COMMAND_DONE and a CHANNEL_NOTICE by R187, with pass marker 1 and 0. -/
theorem test_completion_bytes :
    (CqRecord.commandDone 0x1234 1 300 .deadline 16).toBytes true =
      [0x80, 13, 0x34, 0x12, 1, 0, 0x2C, 0x01, 16, 0, 0, 0, 0, 0, 0, 0] ∧
    (CqRecord.channelNotice 2 .lostSense).toBytes false = [0x02, 2, 3, 2, 0, 0, 0, 0, 0, 0, 0, 0, 0, 0, 0, 0] := by decide

/-! ### The spec's tables of values -/

/-- The examples of section 2.3.1. -/
theorem test_window_examples :
    windowsOf 800 (.sensed 1 .falling 64 96 96) = { blankEnd := 200, delay := 300, timeout := 1200, length := 0, hostLimit := 0 } ∧
      (windowsOf 800 (.scaled 48)).length = 600 ∧
      ((windowsOf 805 (.sensed 0 .either 64 0 96)).blankEnd = 201 ∧ (windowsOf 805 (.sensed 0 .either 64 0 96)).timeout = 1207) ∧
      ((windowsOf 50000 (.sensed 0 .either 255 0 255)).blankEnd = 49804 ∧
        (windowsOf 50000 (.sensed 0 .either 255 0 255)).timeout = 65535) ∧
      ((windowsOf 1 (.sensed 0 .either 128 0 64)).blankEnd = 0 ∧ (windowsOf 1 (.sensed 0 .either 128 0 64)).timeout = 1) ∧
      (windowsOf 1 (.scaled 1)).length = 1 ∧ (windowsOf 65535 (.scaled 255)).length = 261116 := by decide

/-- The examples with R56. -/
theorem test_smoothing_examples :
    smoothed 1000 1200 0 = 1200 ∧ smoothed 1000 1200 3 = 1025 ∧ smoothed 1000 1200 4 = 1012 ∧ smoothed 2000 1900 2 = 1975 ∧
      smoothed 1975 1900 2 = 1957 ∧ smoothed 1957 1900 2 = 1943 ∧ smoothed 1903 1900 2 = 1903 := by decide

/-- The bank of section 1.6.1, whose index 3 is reachable and absent. -/
theorem test_commit_check_example :
    let r (n : StepIx) : StepRecord := { timedStep with next := n }
    Bank.lowestMissing (((((((Table.fill 16 none).write 0 (some (r 1))).write 1
      (some { r 2 with branch := some { target := 0, count := 3 } })).write 2 (some (r 4))).write 4 (some (r 5))).write 5
        (some (r 3))).write 9 (some hostedStep)) = some 3 := by decide +kernel

/-- The counted loop of section 2.7.1: target 0, count 2. -/
theorem test_counted_loop_example :
    branchRule none 0 1 { target := 0, count := 2 } 2 = (some 1, 1, 0) ∧
      branchRule (some 1) 1 1 { target := 0, count := 2 } 2 = (some 1, 0, 0) ∧
      branchRule (some 1) 0 1 { target := 0, count := 2 } 2 = (none, 0, 2) := by decide

/-- The round of section 7.6.1: after id 5, round to 1 and up to 2. -/
theorem test_round_example : roundFrom (some 5) = [6, 7, 1, 2, 3, 4, 5] ∧ roundFrom none = [1, 2, 3, 4, 5, 6, 7] := by decide

/-! ### One step of each command -/

def idle : State := withC0 (readyChannel timedStep markStep) enabled

def fetched : State := fetchingFrom 0 idle

/-- What stands in the list of CQ0 or CQ1 after a command. -/
def listed (q : QueueId) (i : Instr) (s : State) : List CqRecord := ((after i s).cq q).list

theorem test_load_steps_issues_first_read :
    ((after (.loadSteps 9 0 4 2 true 0x12000) fetched).channel 0).store.standby =
      .loading { slot := 3, first := 4, count := 2, clearRest := true, source := 0x12000, prior := .empty, buffer := [] } ∧
    ((after (.loadSteps 9 0 4 2 true 0x12000) fetched).port.requests.map fun t => (t.requester, t.address)) =
      [(.load 0, 0x12000)] := by decide +kernel

theorem test_load_steps_past_index_15 :
    listed 0 (.loadSteps 9 0 15 2 true 0x12000) fetched = [.commandDone 9 0 1 .invalidField 0] := by decide +kernel

theorem test_load_record_is_buffered :
    ((after (.loadRecordArrival 0 exampleRecord) (withBegun (.load 0) (withC0 (loadingChannel []) enabled))).channel 0).store.standby =
      .loading { slot := 5, first := 4, count := 2, clearRest := true, source := 0x12000, prior := .empty, buffer := [sensedStep 4] } := by
  decide +kernel

theorem test_last_load_record_writes_the_bank :
    let t := after (.loadRecordArrival 0 exampleRecord)
      (withBegun (.load 0) (withWorking .loadSteps (withC0 (loadingChannel [timedStep]) enabled)))
    ((t.channel 0).store.standbyBank.read 4, (t.channel 0).store.standbyBank.read 5, (t.channel 0).store.standbyBank.read 6) =
      (some timedStep, some (sensedStep 4), none) ∧
    (t.cq 1).list = [.commandDone 21 1 0 .success 0] := by decide +kernel

theorem test_load_bus_error :
    let t := after (.loadReadBusError 0) (withBegun (.load 0) (withWorking .loadSteps (withC0 (loadingChannel []) enabled)))
    (t.channel 0).store.standby = .empty ∧ (t.cq 1).list = [.commandDone 21 1 0 .busError 0] := by decide +kernel

theorem test_commit_of_empty_bank : listed 0 (.commitSteps 9 0) fetched = [.commandDone 9 0 1 .stateConflict 0] := by
  decide +kernel

theorem test_commit_in_idle_swaps :
    let s := withC0 ((readyChannel timedStep markStep).withStandby .ready) enabled
    let bank := bankOf (sensedStep 1) markStep
    let u := { s with channels := s.channels.map fun ch => { ch with store := { ch.store with banks := ch.store.banks.write 1 bank } } }
    let t := after (.commitSteps 9 0) (fetchingFrom 0 u)
    (t.channel 0).store.active = 1 ∧ (t.channel 0).store.standby = .ready ∧ (t.cq 0).list = [.commandDone 9 0 1 .success 0] := by
  decide +kernel

theorem test_start_enters_step_0 :
    let t := after (.start 9 0 64) fetched
    (t.channel 0).seq.state = .running ∧ (t.channel 0).seq.windows.length = 3 ∧ (t.channel 0).est.reference = 64 ∧
      (t.channel 0).legs = timedStep.legs := by decide +kernel

theorem test_start_refused_on_active_trip :
    listed 0 (.start 9 0 64) (fetchingFrom 0 (withC0 ((readyChannel timedStep markStep).withTripLine .high) enabled)) =
      [.commandDone 9 0 1 .tripActive 0] := by decide +kernel

theorem test_stop_overtakes_graceful_stop :
    let t := after (.stop 9 0 0 0)
      (fetchingFrom 0 (withWorking .stop (withC0 (stoppingChannel (runningChannel timedStep markStep 0) 0 0) enabled)))
    (t.channel 0).seq.state = .idle ∧ (t.channel 0).legs = .allFloat ∧
      (t.cq 1).list = [.commandDone 21 1 0 .overtaken 0] ∧ (t.cq 0).list = [.commandDone 9 0 1 .success 0] := by decide +kernel

theorem test_stop_in_idle_with_unused_mode : listed 0 (.stop 9 0 2 0) fetched = [.commandDone 9 0 1 .invalidField 0] := by
  decide +kernel

theorem test_advance_of_hosted_step :
    let t := after (.advance 9 0) (fetchingFrom 0 (withC0 (runningChannel timedStep hostedStep 1) enabled))
    (t.channel 0).seq.currentStep = 0 ∧ (t.cq 0).list = [.commandDone 9 0 1 .success 0] ∧ (t.cq 1).list.length = 1 := by
  decide +kernel

theorem test_clear_fault :
    let s := withC0 ((runningChannel timedStep markStep 0).leave (.fault .lostSense)) enabled
    ((after (.clearFault 9 0) (fetchingFrom 0 s)).channel 0).seq.state = .idle := by decide +kernel

theorem test_set_duty_above_4096 :
    ((after (.setDuty 9 0 4096) fetched).channel 0).pwm.shadow = some 4096 ∧
      listed 0 (.setDuty 9 0 4097) fetched = [.commandDone 9 0 1 .invalidField 0] := by decide +kernel

theorem test_read_channel_hands_a_write :
    ((after (.readChannel 9 0 0x12010) fetched).port.requests.map Transaction.requester) = [.snapshot 3] ∧
      listed 0 (.readChannel 9 0 0x12008) fetched = [.commandDone 9 0 1 .invalidField 0] := by decide +kernel

theorem test_channel_4_is_no_channel : listed 0 (.readChannel 9 4 0x12010) fetched = [.commandDone 9 0 1 .invalidChannel 0] := by
  decide +kernel

theorem test_open_sq_on_cq1 :
    let t := after (.openSq 9 2 1 3 1024 0x10000) fetched
    (t.sq 2).state = .opened ∧ (t.sq 2).priority = .level 3 ∧ (t.sq 2).boundCq = some 1 := by decide +kernel

theorem test_io_queue_may_not_open : listed 1 (.openSq 9 2 1 3 1024 0x10000) (fetchingFrom 1 idle) =
    [.commandDone 9 1 1 .adminOnly 0] := by decide +kernel

theorem test_close_sq_waits_for_its_slot :
    ((after (.closeSq 9 1) fetched).sq 1).state = .closed ∧
      ((after (.closeSq 9 1) (fetchingFrom 0 (withWorking .readChannel enabled))).sq 1).state = .closing (some 3) := by decide +kernel

theorem test_open_cq :
    let t := after (.openCq 9 2 0xFF 64 50 4 0x18000) fetched
    (t.cq 2).state = .opened ∧ (t.cq 2).vector = none ∧ (t.cq 2).pass = true := by decide +kernel

theorem test_open_cq_size_3 :
    listed 0 (.openCq 9 2 0 1 0 3 0x18000) fetched = [.commandDone 9 0 1 .invalidField 0] := by decide +kernel

theorem test_close_cq_of_a_bound_queue : listed 0 (.closeCq 9 1) fetched = [.commandDone 9 0 1 .stateConflict 0] := by
  decide +kernel

theorem test_set_window :
    (after (.setWindow 9 0 1 0x40 0xFFFFFFFFFFFFFFC0) fetched).windows.read 0 =
      { base := 0xFFFFFFFFFFFFFFC0, length := 64, grantsRead := true, grantsWrite := false } ∧
    listed 0 (.setWindow 9 2 3 0 0) fetched = [.commandDone 9 0 1 .stateConflict 0] := by decide +kernel

theorem test_set_channel :
    let t := after (.setChannel 9 0 7 0 15 3 1 0xFF 0 16) fetched
    (t.channel 0).settings.period = 16 ∧ (t.channel 0).settings.reportCq = none ∧ (t.channel 0).pwm.periodDuty = 0 := by
  decide +kernel

theorem test_set_channel_report_cq_not_open :
    listed 0 (.setChannel 9 0 0 0 1 0 0 2 0 16) fetched = [.commandDone 9 0 1 .invalidQueue 0] := by decide +kernel

theorem test_cancel_hands_a_request :
    (after (.cancel 9 1 21) (fetchingFrom 0 (withWorking .commitSteps enabled))).cancels =
      [{ canceller := 3, target := 5, targetAge := 2 }] ∧
    listed 0 (.cancel 9 1 21) (fetchingFrom 0 (withWorking .readChannel enabled)) = [.commandDone 9 0 1 .notCancelable 0] := by
  decide +kernel

theorem test_unknown_command : listed 0 (.unknownCommand 9 0) fetched = [.commandDone 9 0 1 .invalidOpcode 0] := by
  decide +kernel

/-- A part in which the CANCEL of slot 3 has handed its request for the command in slot 5. -/
def cancelling (code : CommandCode) (ch : Channel) : State :=
  { withWorking code (withC0 ch enabled) with
    slots := ((Table.fill 16 .free).write 5 (.working (workingOf code))).write 3
      (.working { age := 7, sq := 0, cq := 0, code := .cancel, tag := 9, channel := 0, owner := .commandTable }),
    cancels := [{ canceller := 3, target := 5, targetAge := 2 }] }

theorem test_cancel_request_withdraws_the_swap :
    let t := after (.cancelRequest 3) (cancelling .commitSteps (swapping (runningChannel timedStep markStep 0)))
    (t.channel 0).store.standby = .ready ∧ (t.cq 1).list = [.commandDone 21 1 0 .aborted 0] ∧
      (t.cq 0).list = [.commandDone 9 0 0 .success 0] := by decide +kernel

/-- Section 7.6.1, the first choices: class 0 before class 1. -/
theorem test_fetch_start_takes_the_lowest_class :
    let s : State :=
      { enabled with
        sqs := (enabled.sqs.write 1 { openSqAt 1 0x10000 with tail := 2 }).write 2
          { openSqAt 1 0x18000 with tail := 1, priority := .level 0 } }
    (after .fetchStart s).fetch = some { sq := 2, index := 0, slot := 0 } ∧
      (after .fetchStart s).lastServed.read 1 = none ∧ ((after .fetchStart s).cq 1).reserved = 1 := by decide +kernel

theorem test_fetch_read_error :
    let t := after .fetchReadError (fetchingFrom 1 enabled)
    (t.sq 1).state = .broken ∧ (t.cq 1).reserved = 0 ∧ (t.cq 0).list = [.queueNotice 1 .sq .sqFetchError] ∧ t.slot 3 = .free := by
  decide +kernel

theorem test_admin_fetch_error :
    let t := after .adminFetchError fetched
    t.engine.state = .fatal ∧ t.engine.cause = .adminFetchError ∧ (t.cq 0).list = [.queueNotice 0 .sq .sqFetchError] := by
  decide +kernel

def requesting (r : Requester) (a : Addr) (s : State) : State :=
  { s with port := { s.port with requests := [{ begunBy r with address := a }] } }

theorem test_port_begins_and_checks :
    ((after .portBeginTransaction (requesting (.load 0) 0x12000 enabled)).port.begun.map Transaction.refused) = [false] ∧
      ((after .portBeginTransaction (requesting (.load 0) 0x1FFF8 enabled)).port.begun.map Transaction.refused) = [true] ∧
      ((after .portBeginTransaction (requesting (.fetch 0) 0x1000 enabled)).port.begun.map Transaction.refused) = [false] := by
  decide +kernel

theorem test_snapshot_write_done :
    listed 1 (.snapshotWriteDone 5) (withBegun (.snapshot 5) (withWorking .readChannel enabled)) =
      [.commandDone 21 1 0 .success 0] := by decide +kernel

theorem test_snapshot_write_error :
    listed 1 (.snapshotWriteError 5) (withBegun (.snapshot 5) (withWorking .readChannel enabled)) =
      [.commandDone 21 1 0 .busError 0] := by decide +kernel

/-- CQ1 with one record whose write has begun, at the last entry of its ring. -/
def writing (q : QueueId) (r : CqRecord) (s : State) : State :=
  withBegun (.cqWrite q) { s with cqs := s.cqs.write q { s.cqs.read q with list := [r], tail := 63, head := 60 } }

def done : CqRecord := .commandDone 9 1 1 .success 0

theorem test_cq_write_done_wraps_and_signals :
    let t := after (.cqWriteDone 1) (writing 1 done enabled)
    (t.cq 1).tail = 0 ∧ (t.cq 1).pass = false ∧ (t.cq 1).list = [] ∧ t.vectors.pending = 2#4 ∧ t.port.begun = [] := by
  decide +kernel

theorem test_cq_write_error_breaks_cq1 :
    let t := after (.cqWriteError 1) (writing 1 done enabled)
    (t.cq 1).state = .broken ∧ (t.cq 1).list = [] ∧ (t.cq 0).list = [.queueNotice 1 .cq .cqWriteError] := by decide +kernel

theorem test_admin_write_error :
    let t := after .adminWriteError (writing 0 done enabled)
    (t.cq 0).state = .broken ∧ t.engine.state = .fatal ∧ t.engine.cause = .adminWriteError := by decide +kernel

def discardedBy (r : Requester) (s : State) : State :=
  { s with port := { s.port with begun := [{ begunBy r with discarded := true }] } }

theorem test_discarded_transaction_ends_a_halt :
    let t := after (.discardedTransactionEnd (.snapshot 5)) (withEngine .halting (discardedBy (.snapshot 5) enabled))
    t.engine.state = .halted ∧ (t.sq 1).state = .closed ∧ t.port.begun = [] := by decide +kernel

/-- CQ1's timer runs with three records counted of a threshold of 4, as in section 8.6.1. -/
def coalescing : State :=
  { enabled with
    cqs := enabled.cqs.write 1 { openCqAt 0x10800 (some 1) with threshold := 4, time := 50 },
    vectors := { enabled.vectors with unsignalled := enabled.vectors.unsignalled.write 1 3, timers := enabled.vectors.timers.write 1 (some 49) } }

theorem test_coalescing_timer_expiry :
    let t := after (.coalescingTimerExpiry 1) coalescing
    t.vectors.pending = 2#4 ∧ t.vectors.unsignalled.read 1 = 0 ∧ t.vectors.timers.read 1 = none := by decide +kernel

/-- Step 3 of section 2.4.1 running at reference 800 with a valid span of 820 counted. -/
def sensing : Channel :=
  let ch := runningChannel timedStep (sensedStep 0) 1
  { ch with
    est := { ch.est with spanCounter := 820, spanValid := true, stepTimer := 850 },
    seq := { ch.seq with blankFound := true },
    sense := { ch.sense with accepted := Table.fill 3 .high } }

theorem test_blank_end :
    ((after (.blankEnd 0) (withC0 (atTimer 200 (runningChannel timedStep (sensedStep 0) 1)) enabled)).channel 0).seq.blankFound = true ∧
    ((after (.blankEnd 0) (withC0 (atTimer 199 (runningChannel timedStep (sensedStep 0) 1)) enabled)).channel 0).seq.blankFound = false := by
  decide +kernel

/-- A sample of the three sense lines. -/
def lines (s0 s1 s2 : Level) : Table 3 Level := Vector.ofFn fun i => if i = 0 then s0 else if i = 1 then s1 else s2

/-- A sensed step that watches line `l` from its entry for a falling edge and advances at it. -/
def watching (l : LineId) (next : StepIx) : StepRecord :=
  { timedStep with mode := .sensed l .falling 0 0 96, next := next }

/-- The channel put on step 0 of three such steps, which watch lines 0, 1 and 2 in turn. -/
def threeWatches : Channel :=
  let ch := readyChannel (watching 0 1) (watching 1 2)
  let ch := ({ ch with store.banks := ch.store.banks.write 0 ((bankOf (watching 0 1) (watching 1 2)).write 2 (some (watching 2 0))) }.started 800).enter 0
  { ch with sense := { ch.sense with accepted := Table.fill 3 .high } }

/-- The watched line falls and the edge is taken; the edge of another line is passed over.
One sample of three edges, each taken by the step the edge before it made the channel enter (R28, R75). -/
theorem test_sense_edge_of_section_2_4_1 :
    let t := after (.senseEdge 0 (lines .high .low .high)) (withC0 sensing enabled)
    (t.channel 0).est.reference = 805 ∧ (t.channel 0).seq.edgeSpan = some 820 ∧ (t.channel 0).est.spanCounter = 0 ∧
      (t.channel 0).seq.edgeTaken = true ∧
      ((after (.senseEdge 0 (lines .high .high .low)) (withC0 sensing enabled)).channel 0).seq.edgeTaken = false ∧
      ((after (.senseEdge 0 (lines .low .high .low)) (withC0 threeWatches enabled)).channel 0).seq.currentStep = 1 ∧
      ((after (.senseEdge 0 (lines .low .low .high)) (withC0 threeWatches enabled)).channel 0).seq.currentStep = 2 ∧
      ((after (.senseEdge 0 (lines .low .low .low)) (withC0 threeWatches enabled)).channel 0).seq.currentStep = 0 := by
  decide +kernel

/-- Sense filter 2, so N = 4, with `n` samples of S0 counted toward HIGH. -/
def filtering (n : Nat) : Channel :=
  { Channel.reset (Table.fill 3 .low) .low with
    settings := { Settings.reset with filter := 2 },
    sense := { Sense.reset (Table.fill 3 .low) .low with runs := (Table.fill 3 0).write 0 n } }

/-- Samples 3, 2 and 7 of the table: back at the accepted level, one more of the run, and the fourth of a run. -/
theorem test_filter_of_section_4_3_1 :
    let front (level : Level) (n : Nat) : Sense :=
      ((after (.senseEdge 0 (lines level .low .low)) (withC0 (filtering n) enabled)).channel 0).sense
    ((front .low 2).runs.read 0 = 0 ∧ (front .low 2).accepted.read 0 = .low) ∧
      ((front .high 1).runs.read 0 = 2 ∧ (front .high 1).accepted.read 0 = .low) ∧
      ((front .high 3).runs.read 0 = 0 ∧ (front .high 3).accepted.read 0 = .high) := by decide +kernel

theorem test_timeout_forces_advance :
    let t := after (.timeout 0) (withC0 (atTimer 1200 sensing) enabled)
    (t.channel 0).est.forcedCount = 1 ∧ (t.channel 0).seq.currentStep = 0 ∧ (t.channel 0).est.spanValid = false := by decide +kernel

theorem test_third_timeout_loses_sense :
    let t := after (.timeout 0) (withC0 { atTimer 1200 sensing with est := { (atTimer 1200 sensing).est with forcedCount := 2 } } enabled)
    (t.channel 0).seq.state = .fault .lostSense ∧ (t.channel 0).est.forcedCount = 3 ∧
      (t.cq 1).list = [.channelNotice 0 .lostSense] := by decide +kernel

/-- The edge of section 2.4.1 taken at step timer 850, the delay of 300 run out at 1150. -/
def delaying (n : Nat) : Channel := atTimer n sensing.edgeRecorded

theorem test_delay_end_of_section_2_4_1 :
    (after (.delayEnd 0) (withC0 (delaying 1149) enabled)).channel 0 = delaying 1149 ∧
      listed 1 (.delayEnd 0) (withC0 (delaying 1150) enabled) = [.stepReport
        { channel := 0, stepLeft := 1, bank := 0, cause := .sensed, stepEntered := some 0, reference := 805, cycle := 0,
          span := some 820 } 0] := by decide +kernel

theorem test_length_end :
    ((after (.lengthEnd 0) (withC0 (atTimer 3 (runningChannel timedStep markStep 0)) enabled)).channel 0).seq.currentStep = 1 ∧
    ((after (.lengthEnd 0) (withC0 (atTimer 2 (runningChannel timedStep markStep 0)) enabled)).channel 0).seq.currentStep = 0 := by
  decide +kernel

/-- Section 12.3: the mark takes the swap, SUCCESS first and then the report of the mark. -/
theorem test_mark_takes_the_swap :
    let t := after (.lengthEnd 0) (withWorking .commitSteps (withC0 (atTimer 3 (swapping (runningChannel timedStep markStep 1))) enabled))
    (t.channel 0).store.active = 1 ∧ (t.channel 0).seq.currentStep = 0 ∧ (t.channel 0).seq.cycle = 1 ∧
      (t.cq 1).list = [.commandDone 21 1 0 .success 0, .stepReport
        { channel := 0, stepLeft := 1, bank := 0, cause := .timed, stepEntered := some 0, reference := 800, cycle := 1, span := none } 0] := by
  decide +kernel

theorem test_host_limit_expiry :
    ((after (.hostLimitExpiry 0) (withC0 (atTimer 5 (runningChannel timedStep hostedStep 1)) enabled)).channel 0).seq.state =
      .fault .hostTimeout := by decide +kernel

theorem test_deadline :
    let t := after (.deadline 0) (withWorking .stop (withC0 (stoppingChannel (runningChannel timedStep markStep 0) 7 7) enabled))
    (t.channel 0).seq.state = .idle ∧ (t.cq 1).list = [.commandDone 21 1 0 .deadline 0] := by decide +kernel

theorem test_trip :
    ((after (.trip 0 .high) (withC0 (runningChannel timedStep markStep 0) enabled)).channel 0).seq.state = .fault .trip ∧
      ((after (.trip 0 .low) (withC0 (runningChannel timedStep markStep 0) enabled)).channel 0).seq.state = .running := by
  decide +kernel

/-- The start of period 2 in section 4.2.1. -/
theorem test_period_start_of_section_4_2_1 :
    ({ counter := 999, duty := 300, shadow := none, override := .staged 800, periodDuty := 300 } : Pwm).periodStart 1000 =
        { counter := 0, duty := 300, shadow := none, override := .inForce 800, periodDuty := 800 } ∧
      ((after (.periodStart 0) (withC0 ((readyChannel timedStep markStep).withShadow 4096) enabled)).channel 0).pwm.periodDuty = 1000 := by
  decide +kernel

theorem test_tick :
    let t := after (.tick 0) (withC0 (atTimer 1 (runningChannel timedStep markStep 0)) enabled)
    (t.channel 0).est.stepTimer = 2 ∧ (t.channel 0).est.spanCounter = 1 := by decide +kernel

def spanAt (n : Nat) : Channel :=
  { runningChannel timedStep (sensedStep 0) 1 with
    est := { (runningChannel timedStep (sensedStep 0) 1).est with spanCounter := n, spanValid := true } }

theorem test_span_counter_saturation :
    let t := after (.spanCounterSaturation 0) (withC0 (spanAt 65534) enabled)
    (t.channel 0).est.spanCounter = 65535 ∧ (t.channel 0).est.spanValid = false := by decide +kernel

theorem test_post :
    ((after (.post 0 31) (withEngine .fatal enabled)).sq 0).tail = 31 ∧
      listed 0 (.post 1 32) enabled = [.queueNotice 1 .sq .badPost] := by decide +kernel

/-- Section 12.4: head 0 and tail 7 of a ring of 8, released to head 4, offers the held notice. -/
def ringFull : State :=
  { enabled with
    cqs := enabled.cqs.write 1 { openCqAt 0x10800 (some 1) with size := 8, tail := 7 },
    channels := enabled.channels.write 2 ((readyChannel timedStep markStep).withHeld (some { cause := .lostSense, cq := 1 })) }

theorem test_release_offers_held_notice :
    let t := after (.release 1 4) ringFull
    (t.cq 1).head = 4 ∧ (t.cq 1).list = [.channelNotice 2 .lostSense] ∧ (t.channel 2).seq.held = none ∧
      listed 0 (.release 1 8) ringFull = [.queueNotice 1 .cq .badRelease] := by decide +kernel

theorem test_vector_status_and_mask :
    let s := { enabled with vectors := { enabled.vectors with pending := 0xF } }
    (after (.vectorStatus 5) s).vectors.pending = 0xA ∧ (after (.vectorMask 3) s).interruptLines = 0xC := by decide +kernel

/-- The enable of section 12.1.1. -/
def configured : State :=
  { State.reset with engine := { Engine.reset .powerOn with adminSqBase := 0x10000000, adminCqBase := 0x10002000, adminSqSize := 64, adminCqSize := 64 } }

theorem test_enable_of_section_12_1_1 :
    let t := after .enable configured
    t.engine.state = .running ∧ (t.sq 0).size = 64 ∧ (t.cq 0).vector = some 0 ∧ (t.cq 0).pass = true := by decide +kernel

theorem test_enable_with_sizes_0 :
    (after .enable State.reset).engine = { Engine.reset .powerOn with cause := .adminConfig } := by decide +kernel

theorem test_admin_register_write :
    (after (.adminRegisterWrite .sizes 0x00400040) State.reset).readRegister 0x18 = 0x00400040 ∧
      (after (.adminRegisterWrite .sizes 0x00400040) enabled).readRegister 0x18 = 0 := by decide +kernel

theorem test_register_write_ignored : exec (.registerWriteIgnored 0x2C 5) enabled = .next enabled := rfl

theorem test_halt_and_its_end :
    (after .halt enabled).engine.state = .halted ∧
      (after .halt (withBegun (.fetch 1) enabled)).engine.state = .halting ∧
      (after .haltEnd (after .halt (withBegun (.fetch 1) enabled))).engine.state = .halted := by decide +kernel

theorem test_soft_reset :
    (after (.softReset true) enabled).engine = .reset .soft ∧ ((after (.softReset true) enabled).cq 0).state = .closed := by
  decide +kernel

theorem test_resets_and_pin :
    (after .powerOnReset enabled).engine = .reset .powerOn ∧ (after .pinReset enabled).resetPin = true ∧
      (after .resetPinRelease (after .pinReset enabled)).resetPin = false := by decide +kernel

/-- The state a step answers. -/
def stepped (s : State) : State :=
  match step s with
  | .next t => t
  | .fault _ | .refused _ => .reset

theorem test_step_takes_the_front_command :
    (stepped { State.reset with pending := [.pinReset, .resetPinRelease] }).resetPin = true ∧
      (stepped { State.reset with pending := [.pinReset, .resetPinRelease] }).pending = [.resetPinRelease] := by decide +kernel

/-! ### States and operands that meet the hypotheses of the statements

Each theorem below is named after the statement whose hypotheses it meets, clause by clause, at a boundary where the clause has a range. -/

theorem meets_HeldResetKeepsEverything :
    (after .pinReset enabled).resetPin = true ∧ (Instr.tick 0).wellFormed = true ∧ Instr.tick 0 ≠ .powerOnReset ∧
      Instr.tick 0 ≠ .pinReset ∧ Instr.tick 0 ≠ .resetPinRelease := by decide +kernel

theorem meets_EveryCommandAnswers :
    (Instr.unknownCommand 9 0xFF).wellFormed = true ∧ (Instr.cqWriteError 7).wellFormed = true ∧
      (Instr.registerWriteIgnored 0x3C 0).wellFormed = true ∧ (Instr.cqWriteError 0).wellFormed = false := by decide

/-- A clock with the pin released and asserted; a channel whose divider issues a tick and one whose divider does not;
a 40th clock of the timebase with a timer that reaches its coalescing time, one that does not and one that is stopped. -/
theorem meets_ClockCountsPwmPeriods :
    let ch := runningChannel timedStep markStep 0
    let slow := { ch with settings := { ch.settings with prescale := 1 } }
    let last := { coalescing with vectors := { coalescing.vectors with timebase := 39, timers := coalescing.vectors.timers.write 2 (some 3) },
                                  cqs := coalescing.cqs.write 2 { openCqAt 0x11000 none with time := 5 } }
    (enabled.pending = [] ∧ enabled.resetPin = false ∧ enabled.vectors.timebase + 1 < 40) ∧
      ((after .pinReset enabled).pending = [] ∧ (after .pinReset enabled).resetPin = true) ∧
      (ch.isOn = true ∧ ch.est.divider = some 0 ∧ ch.sense.tripLine ≠ ch.settings.tripLevel ∧
        (∀ l, ch.sense.pins.read l = ch.sense.accepted.read l) ∧ 2 ^ ch.settings.prescale ≤ 0 + 1 ∧ ch.windowDue = false ∧
        ch.deadlineDue = false ∧ ch.ticked.windowDue = false ∧ ch.ticked.deadlineDue = false) ∧
      (slow.isOn = true ∧ slow.est.divider = some 0 ∧ 0 + 1 < 2 ^ slow.settings.prescale) ∧
      (40 ≤ last.vectors.timebase + 1 ∧ last.vectors.timers.read 1 = some 49 ∧ (last.cq 1).time ≤ 49 + 1 ∧
        (last.cq 1).vector = some 1 ∧ last.vectors.timers.read 2 = some 3 ∧ 3 + 1 < (last.cq 2).time ∧
        last.vectors.timers.read 3 = none) := by decide +kernel

/-- A part with a begun fetch, open I/O rings and a tick waiting. -/
def busy : State :=
  { fetchingFrom 1 (withC0 (runningChannel timedStep markStep 0) enabled) with pending := [.tick 0] }

theorem meets_StepKeepsPortAndRings : step busy = .next (stepped busy) ∧ busy.PortBounded ∧ busy.RingsInWindows := by
  refine ⟨rfl, ?_, ?_⟩
  · show busy.port.begun.length ≤ 4
    decide +kernel
  · show ∀ q : QueueId, q ≠ 0 → _
    decide +kernel

theorem meets_StepKeepsRoom : step busy = .next (stepped busy) ∧ busy.RoomHolds := by
  refine ⟨rfl, ⟨by decide +kernel, ?_, ?_, by decide +kernel, by decide +kernel, ?_, ?_⟩⟩
  · intro k i b hi hb
    rcases decEq k 3 with h | h
    · have : ∀ k, k ≠ 3 → (busy.slot k).sqId = none := by decide +kernel
      rw [this k h] at hi
      cases hi
    · subst h
      have : (busy.slot 3).sqId = some 1 ∧ (busy.slot 3).reservedIn = some 1 := by decide +kernel
      rw [this.1] at hi
      rw [this.2] at hb
      cases hi
      cases hb
      exact ⟨by decide +kernel, by decide +kernel⟩
  · intro i hi
    have h : ∀ i, (busy.sq i).state ≠ .closed → (busy.sq i).boundCq = some i ∧ (busy.cq i).state ≠ .closed := by decide +kernel
    exact ⟨i, h i hi⟩
  · intro f hf
    cases hf
    exact ⟨7, 1, by decide +kernel⟩
  · intro h
    exact absurd rfl h

theorem meets_StepKeepsTables : step busy = .next (stepped busy) ∧ busy.TablesHold := by
  refine ⟨rfl, fun c => ?_⟩
  have records : ∀ c i j, Table.read ((busy.channel c).store.banks.read i) j = none ∨
      Table.read ((busy.channel c).store.banks.read i) j = some timedStep ∨
      Table.read ((busy.channel c).store.banks.read i) j = some markStep := by decide +kernel
  have range : timedStep.InRange ∧ markStep.InRange :=
    ⟨⟨⟨by decide, by decide⟩, (by intro b h; cases h), (by intro d h; cases h)⟩,
      ⟨⟨by decide, by decide⟩, (by intro b h; cases h), (by intro d h; cases h)⟩⟩
  have standby : ∀ c, (busy.channel c).store.standby = .empty ∧ Bank.isEmpty (busy.channel c).store.standbyBank = true := by
    decide +kernel
  have current : ∀ c, (busy.channel c).seq.currentStep = 0 ∧
      ((busy.channel c).isOn = true → (busy.channel c).store.activeValid = true) := by decide +kernel
  refine ⟨⟨?_, ?_, ?_⟩, ?_, ?_⟩
  · intro i j r h
    rcases records c i j with h' | h' | h' <;> rw [h'] at h <;> cases h
    · exact range.1
    · exact range.2
  · have : ∀ c, (busy.channel c).store.activeValid = true → Bank.lowestMissing (busy.channel c).store.activeBank = none := by
      decide +kernel
    exact this c
  · unfold StepStore.StandbyHolds
    rw [(standby c).1]
    exact (standby c).2
  · intro h
    rw [(current c).1]
    exact ⟨(current c).2 h, .entry⟩
  · intro k h
    rw [(standby c).1] at h
    cases h

theorem meets_StepKeepsRanges : step busy = .next (stepped busy) ∧ busy.RangesHold := by
  refine ⟨rfl, fun c => ?_⟩
  have records : ∀ c i j, Table.read ((busy.channel c).store.banks.read i) j = none ∨
      Table.read ((busy.channel c).store.banks.read i) j = some timedStep ∨
      Table.read ((busy.channel c).store.banks.read i) j = some markStep := by decide +kernel
  have range : timedStep.InRange ∧ markStep.InRange :=
    ⟨⟨⟨by decide, by decide⟩, (by intro b h; cases h), (by intro d h; cases h)⟩,
      ⟨⟨by decide, by decide⟩, (by intro b h; cases h), (by intro d h; cases h)⟩⟩
  have settings : ∀ c, (busy.channel c).settings = Settings.reset ∨
      (busy.channel c).settings = { Settings.reset with reportCq := some 1 } := by decide +kernel
  have settingsRange : Settings.reset.InRange ∧ Settings.InRange { Settings.reset with reportCq := some 1 } :=
    ⟨⟨by decide, by decide, by decide, by decide, by decide, by decide, by decide⟩,
      ⟨by decide, by decide, by decide, by decide, by decide, by decide, by decide⟩⟩
  have items : ∀ c, (busy.channel c).store.standby = .empty ∧ (busy.channel c).pwm = .reset ∧
      ((busy.channel c).seq.state = .running ∨ (busy.channel c).seq.state = .idle) ∧
      ((busy.channel c).est.divider = none ∨ (busy.channel c).est.divider = some 0) := by decide +kernel
  have numbers : ∀ c, (1 ≤ (busy.channel c).est.reference ∧ (busy.channel c).est.reference ≤ 65535) ∧
      (busy.channel c).est.stepTimer ≤ 262143 ∧
      ((busy.channel c).est.spanCounter ≤ 65535 ∧ ((busy.channel c).est.spanValid = true → (busy.channel c).est.spanCounter ≤ 65534)) ∧
      (busy.channel c).est.forcedCount = 0 ∧ (busy.channel c).seq.cycle ≤ 4294967295 ∧ (busy.channel c).seq.lost ≤ 255 ∧
      ((busy.channel c).seq.loopCounter ≤ 255 ∧
        ((busy.channel c).seq.loopOwner = none → (busy.channel c).seq.loopCounter = 0)) := by decide +kernel
  have limits : ∀ c, 0 < (busy.channel c).settings.period ∧ 0 < (busy.channel c).settings.forcedLimit ∧
      0 < (busy.channel c).settings.clocksPerTick ∧
      (∀ l, (busy.channel c).sense.runs.read l < (busy.channel c).settings.runLength) := by decide +kernel
  have rest : ∀ c, ((busy.channel c).isOn = true → (busy.channel c).est.divider.isSome = true) ∧
      ((busy.channel c).isOn = false →
        (busy.channel c).legs = Legs.allFloat ∧ (busy.channel c).pwm.override = .none ∧ (busy.channel c).est.divider = none) := by
    decide +kernel
  obtain ⟨standby, pwm, state, divider⟩ := items c
  obtain ⟨reference, timer, span, forced, cycle, lost, loop⟩ := numbers c
  obtain ⟨period, limit, ticks, runs⟩ := limits c
  refine { settings := ?_, records := ?_, buffer := ?_, reference := reference, stepTimer := timer, span := span, forced := ?_,
           cycle := cycle, lost := lost, loop := loop, counter := ?_, duty := ?_, override := ?_, periodDuty := ?_, runs := runs,
           divider := ?_, on := (rest c).1, off := (rest c).2 }
  · rcases settings c with h | h <;> rw [h]
    · exact settingsRange.1
    · exact settingsRange.2
  · intro i j r h
    rcases records c i j with h' | h' | h' <;> rw [h'] at h <;> cases h
    · exact range.1
    · exact range.2
  · intro l h
    rw [standby] at h
    cases h
  · unfold Channel.ForcedHolds
    rcases state with h | h <;> rw [h]
    · show (busy.channel c).est.forcedCount < _
      rw [forced]
      exact limit
    · exact forced
  · rw [pwm]
    exact period
  · rw [pwm]
    exact ⟨by decide, by intro d h; cases h⟩
  · rw [pwm]
    intro d h
    rcases h with h | h <;> cases h
  · rw [pwm]
    exact Nat.zero_le _
  · intro n h
    rcases divider with h' | h' <;> rw [h'] at h <;> cases h
    exact ticks

/-- A part in a halt that waits for the begun read of a discarded load. -/
def halting : State := { withEngine .halting (discardedBy (.load 0) State.reset) with pending := [.tick 0] }

theorem meets_StepKeepsEngine : step halting = .next (stepped halting) ∧ halting.EngineHolds := by
  refine ⟨rfl, ?_⟩
  have channels : ∀ c, (halting.channel c).store.standby.waits = false ∧ (halting.channel c).seq.state = .idle ∧
      (halting.channel c).seq.held = none := by decide +kernel
  exact {
    commands := fun _ => ⟨rfl, rfl, by decide +kernel, fun c => (channels c).1⟩
    cause := ⟨(by decide +kernel), (by decide +kernel)⟩
    idle := fun _ => ⟨fun c => (channels c).2, by decide +kernel⟩
    fatal := fun h => by cases h
    discarded := fun _ => by decide +kernel
    halting := fun _ => by decide +kernel
    halted := fun h => by cases h }

theorem meets_ResetsLeaveNamedValues : enabled.resetPin = false := rfl

theorem meets_CommandRecordsDecodeBack :
    (Instr.setWindow 0xFFFF 3 3 0xFFFFFFC0 0xFFFFFFFFFFFFFFC0).wellFormed = true ∧
      (recordOfCommand (.setWindow 0xFFFF 3 3 0xFFFFFFC0 0xFFFFFFFFFFFFFFC0)).isSome = true ∧
      (Instr.post 7 1023).wellFormed = true ∧ registerWordOf (.post 7 1023) = some (0x1C, 0x03FF0007) := by decide +kernel

/-- Two LOAD_STEPS records that differ in the bytes no command reads and in the reserved flag bits. -/
theorem meets_UnreadBytesAreIgnored :
    let a : Table 32 Byte := (Table.fill 32 0).write 0 0x10
    let b : Table 32 Byte := (a.write 1 0xFE).write 31 0xFF
    a ≠ b ∧ (a.read 0 = b.read 0 ∧ a.read 2 = b.read 2 ∧ a.read 3 = b.read 3) ∧
      (∀ j : Fin 32, readsByte (a.read 0) j.val = true → a.read j = b.read j) ∧
      (a.read 1).getLsbD 0 = (b.read 1).getLsbD 0 := by decide +kernel

theorem meets_StepRecordHoldsItsFields :
    (stepRecordOf exampleRecord).isSome = true ∧ (stepRecordOf (bytes16 [1, 0, 0, 0, 0, 0, 0, 0, 0, 0, 0, 0, 1])).isSome = true ∧
      (stepRecordOf (bytes16 [2, 0, 0, 0, 0, 0, 0, 0, 0, 0, 0, 0, 1])).isSome = true ∧
      (stepRecordOf (bytes16 [0xC3, 5, 5, 5, 15, 15, 1, 0, 0, 16])).isSome = true := by decide +kernel

/-- The only begun fetch read is one of SQ1 whose command was discarded, and no fetch read returns. -/
def strayFetch : State := discardedBy (.fetch 1) enabled

/-- A fetched record of SQ1 that is unknown, of SQ1 that is an admin command, and of SQ0 that names channel 4;
no read to return with a discarded one begun, in FATAL, in a halt, and with none begun. -/
theorem meets_RecordIsTakenAndChecked :
    let s := fetchingFrom 1 idle
    (s.resetPin = false ∧ s.settle.returning = some { sq := 1, index := 0, slot := 3 } ∧ s.settle.slot 3 = .fetching 7 1 1) ∧
      (fetched.resetPin = false ∧ fetched.settle.returning = some { sq := 0, index := 0, slot := 3 } ∧
        fetched.settle.slot 3 = .fetching 7 0 0) ∧
      ((Instr.unknownCommand 9 8).wellFormed = true ∧ headerOf (.unknownCommand 9 8) = some (.unknown 8, 9, 0)) ∧
      (headerOf (.closeSq 9 1) = some (.closeSq, 9, 0) ∧ CommandCode.closeSq.isAdminOnly = true) ∧
      (headerOf (.advance 9 4) = some (.advance, 9, 4) ∧ CommandCode.advance.readsChannel = true ∧ 3 < (4 : Byte).toNat) ∧
      (∀ x ∈ [withEngine .fatal strayFetch, withEngine .halting strayFetch],
        x.resetPin = false ∧ x.settle.returning = none ∧ x.settle.port.hasDiscarded (.fetch 1) = true ∧
          ∀ p, p ≠ 1 → x.settle.port.hasDiscarded (.fetch p) = false) ∧
      (enabled.settle.returning = none ∧ ∀ p, enabled.settle.port.hasDiscarded (.fetch p) = false) := by
  decide +kernel

/-- A part with a command in slot 5, its CQ open and free to write, open and being written, halting, and broken. -/
theorem meets_CompletionIsTaken :
    let s := withWorking .advance enabled
    let broken := { s with cqs := s.cqs.write 1 { s.cqs.read 1 with state := .broken } }
    s.slot 5 = .working (workingOf .advance) ∧ (s.sq 1).state = .opened ∧
      ((s.cq 1).state = .opened ∧ s.engine.state ≠ .halting ∧ s.port.holds (.cqWrite 1) = false) ∧
      (withBegun (.cqWrite 1) s).port.holds (.cqWrite 1) = true ∧ (withEngine .halting s).engine.state = .halting ∧
      (broken.slot 5 = .working (workingOf .advance) ∧ (broken.cq 1).state ≠ .opened) := by decide +kernel

/-- SQ1 CLOSING for the CLOSE_SQ in slot 3, the last of its commands in slot 5. -/
def closing (cq : QueueId) : State :=
  { withWorking .advance enabled with
    slots := ((Table.fill 16 .free).write 5 (.working (workingOf .advance))).write 3
      (.working { age := 7, sq := 0, cq := cq, code := .closeSq, tag := 9, channel := 0, owner := .fetchUnit }),
    sqs := enabled.sqs.write 1 { enabled.sqs.read 1 with state := .closing (some 3) } }

def closingWithTwo : State := { closing 0 with slots := (closing 0).slots.write 6 (.working (workingOf .advance)) }

theorem meets_LastCompletionClosesQueue :
    ((closing 0).slot 5 = .working (workingOf .advance) ∧ ((closing 0).sq 1).state = .closing (some 3) ∧
      (∀ i, i ≠ 5 → ((closing 0).slot i).sqId ≠ some 1) ∧ ((closing 0).cq 1).state = .opened ∧
      ((closing 0).cq 0).state = .opened) ∧
    ((∀ i, i ≠ 5 → ((closing 1).slot i).sqId ≠ some 1) ∧ ((closing 1).cq 1).state = .opened) ∧
    (let s := { closing 0 with cqs := (closing 0).cqs.write 1 { (closing 0).cqs.read 1 with state := .broken } }
     s.slot 5 = .working (workingOf .advance) ∧ (s.sq 1).state = .closing (some 3) ∧
      (∀ i, i ≠ 5 → (s.slot i).sqId ≠ some 1) ∧ (s.cq 1).state ≠ .opened ∧ (s.cq 0).state = .opened) ∧
    ((closingWithTwo.slot 6).sqId = some 1 ∧ (closingWithTwo.sq 1).state = .closing (some 3)) := by decide +kernel

/-- An offer to an open CQ with one free entry, to one with none, while HALTING, to a broken one, and with a notice held;
a release's offer to a channel that holds nothing, and to one whose notice is accepted, refused, or waits for another CQ. -/
theorem meets_OffersAreTaken :
    let full := { ringFull with cqs := ringFull.cqs.write 1 { ringFull.cqs.read 1 with head := 0, tail := 7 } }
    let one := { ringFull with cqs := ringFull.cqs.write 1 { ringFull.cqs.read 1 with head := 0, tail := 6 } }
    let broken := { ringFull with cqs := ringFull.cqs.write 1 { ringFull.cqs.read 1 with state := .broken } }
    (State.reset.channel 0).settings.reportCq = none ∧
      (one.accepts 1 = true ∧ (withC0 (readyChannel timedStep markStep) one).accepts 1 = true ∧
        (readyChannel timedStep markStep).settings.reportCq = some 1 ∧ (readyChannel timedStep markStep).seq.held = none) ∧
      (full.accepts 1 = false ∧ (full.cq 1).state = .opened ∧ full.engine.state ≠ .halting) ∧
      ((withEngine .halting one).accepts 1 = false) ∧ (broken.accepts 1 = false ∧ (broken.cq 1).state ≠ .opened) ∧
      ((full.channel 2).seq.held = some { cause := .lostSense, cq := 1 } ∧ (full.channel 2).settings.reportCq = some 1) ∧
      (((withEngine .halting one).cq 1).state = .opened ∧ (withEngine .halting one).engine.state = .halting ∧
        ((withEngine .halting full).channel 2).seq.held = some { cause := .lostSense, cq := 1 }) ∧
      full.accepts 0 = true ∧ (withEngine .halting one).accepts 0 = false ∧
      ((one.channel 0).seq.held = none ∧ (one.channel 2).seq.held = some { cause := .lostSense, cq := 1 } ∧
        one.accepts 1 = true ∧ full.accepts 1 = false ∧ (1 : QueueId) ≠ 0) := by decide +kernel

theorem meets_LoadStepsIsChecked : fetched.Dispatches .loadSteps 9 0 3 (owned .loadSteps 0 idle) ∧ channelOf 0 = some 0 :=
  ⟨dispatches_from_sq0 9 0 rfl (by decide +kernel) rfl (fun _ => rfl), rfl⟩

/-- A load of two records whose first read and whose last read is outstanding, and an invalid record;
a discarded read with no load waiting for it, in a halt, and with one waiting; and no read begun. -/
theorem meets_LoadReadsEnd :
    let first := withBegun (.load 0) (withWorking .loadSteps (withC0 (loadingChannel []) enabled))
    let last := withBegun (.load 0) (withWorking .loadSteps (withC0 (loadingChannel [timedStep]) enabled))
    let l (buffer : List StepRecord) : Load :=
      { slot := 5, first := 4, count := 2, clearRest := true, source := 0x12000, prior := .empty, buffer := buffer }
    first.resetPin = false ∧ (first.settle.channel 0).store.standby = .loading (l []) ∧
      first.settle.port.answers (.load 0) = true ∧ first.settle.port.fails (.load 0) = true ∧
      (last.settle.channel 0).store.standby = .loading (l [timedStep]) ∧ last.settle.port.answers (.load 0) = true ∧
      stepRecordOf (bytes16 [4]) = none ∧ stepRecordOf exampleRecord = some (sensedStep 4) ∧ (l []).buffer.length + 1 ≠ (l []).count ∧
      (l [timedStep]).buffer.length + 1 = (l [timedStep]).count ∧
      (∀ x ∈ [discardedBy (.load 0) enabled, halting],
        x.resetPin = false ∧ x.settle.port.hasDiscarded (.load 0) = true ∧ (x.settle.channel 0).store.standby = .empty) ∧
      (let waiting := discardedBy (.load 0) (withC0 (loadingChannel []) enabled)
       waiting.settle.port.hasDiscarded (.load 0) = true ∧ (waiting.settle.channel 0).store.standby = .loading (l []) ∧
        waiting.engine.state ≠ .halting) ∧
      (enabled.settle.port.hasDiscarded (.load 0) = false ∧ enabled.settle.port.answers (.load 0) = false ∧
        enabled.settle.port.fails (.load 0) = false) := by decide +kernel

theorem meets_StepRecordFailsExactly :
    let s := withBegun (.load 0) (withWorking .loadSteps (withC0 (loadingChannel []) enabled))
    s.resetPin = false ∧ (∃ l, (s.settle.channel 0).store.standby = .loading l) ∧ s.settle.port.answers (.load 0) = true ∧
      stepRecordOf (bytes16 [4]) = none := by
  refine ⟨by decide +kernel, ⟨{ slot := 5, first := 4, count := 2, clearRest := true, source := 0x12000, prior := .empty, buffer := [] },
    by decide +kernel⟩, by decide +kernel, by decide +kernel⟩

theorem meets_CommitStepsIsChecked : fetched.Dispatches .commitSteps 9 0 3 (owned .commitSteps 0 idle) ∧ channelOf 0 = some 0 :=
  ⟨dispatches_from_sq0 9 0 rfl (by decide +kernel) rfl (fun _ => rfl), rfl⟩

theorem meets_StartIsChecked :
    fetched.Dispatches .start 9 0 3 (owned .start 0 idle) ∧
      (((owned .start 0 idle).channel 0).seq.state = .idle ∧ ((owned .start 0 idle).channel 0).store.activeValid = true ∧
        ((owned .start 0 idle).channel 0).sense.tripLine ≠ ((owned .start 0 idle).channel 0).settings.tripLevel ∧
        ((owned .start 0 idle).channel 0).store.activeBank.read 0 = some timedStep) :=
  ⟨dispatches_from_sq0 9 0 rfl (by decide +kernel) rfl (fun _ => rfl), by decide +kernel⟩

/-- START in RUNNING, and in IDLE with an active trip line. -/
theorem meets_StartIsChecked_refusals :
    let on := withC0 (runningChannel timedStep markStep 0) enabled
    let tripped := withC0 ((readyChannel timedStep markStep).withTripLine .high) enabled
    ((fetchingFrom 0 on).Dispatches .start 9 0 3 (owned .start 0 on) ∧ ((owned .start 0 on).channel 0).seq.state ≠ .idle) ∧
      ((fetchingFrom 0 tripped).Dispatches .start 9 0 3 (owned .start 0 tripped) ∧
        ((owned .start 0 tripped).channel 0).seq.state = .idle ∧ ((owned .start 0 tripped).channel 0).store.activeValid = true ∧
        ((owned .start 0 tripped).channel 0).sense.tripLine = ((owned .start 0 tripped).channel 0).settings.tripLevel) :=
  ⟨⟨dispatches_from_sq0 9 0 rfl (by decide +kernel) rfl (fun _ => rfl), by decide +kernel⟩,
    ⟨dispatches_from_sq0 9 0 rfl (by decide +kernel) rfl (fun _ => rfl), by decide +kernel⟩⟩

theorem meets_StepEntryComputesWindows :
    (readyChannel timedStep markStep).store.activeBank.read 1 = some markStep ∧ 1 ≤ 65535 ∧ 65535 ≤ 65535 ∧ 255 ≤ 255 ∧ 64 ≤ 64 ∧
      (windowsOf 65535 (.scaled 255)).length = 261116 := by
  decide +kernel

/-- An advance with no branch, one whose branch returns for the last time, and one whose branch falls through. -/
theorem meets_AdvanceFollowsTheTable :
    let looping : StepRecord := { timedStep with branch := some { target := 0, count := 1 } }
    let plain := runningChannel timedStep markStep 0
    let loop (counter : Nat) : Channel :=
      { runningChannel looping markStep 0 with
        seq := { (runningChannel looping markStep 0).seq with loopOwner := some 0, loopCounter := counter } }
    (plain.isOn = true ∧ plain.store.activeBank.read plain.seq.currentStep = some timedStep ∧ timedStep.mark = false ∧
      timedStep.branch = none ∧ plain.store.activeBank.read timedStep.next = some markStep) ∧
    ((loop 1).isOn = true ∧ (loop 1).store.activeBank.read (loop 1).seq.currentStep = some looping ∧ looping.mark = false ∧
      (loop 1).seq.loopOwner = some (loop 1).seq.currentStep ∧ 0 < (loop 1).seq.loopCounter ∧
      (loop 1).store.activeBank.read 0 = some looping) ∧
    ((loop 0).store.activeBank.read (loop 0).seq.currentStep = some looping ∧
      (loop 0).seq.loopOwner = some (loop 0).seq.currentStep ∧ (loop 0).seq.loopCounter = 0 ∧
      (loop 0).store.activeBank.read looping.next = some markStep) := by decide +kernel

theorem meets_AdvanceTakesWhatIsPendingAtAMark :
    let swap := swapping (runningChannel timedStep markStep 1)
    let stop := stoppingChannel swap 0 0
    (swap.store.activeBank.read swap.seq.currentStep = some markStep ∧ markStep.mark = true ∧ swap.seq.state = .running ∧
      swap.store.standby = .swapPending 5 ∧ swap.store.standbyBank.read 0 = some (sensedStep 1)) ∧
    (stop.store.activeBank.read stop.seq.currentStep = some markStep ∧
      stop.seq.state = .stopping { deadline := 0, count := 0, slot := 5 }) := by decide +kernel

theorem meets_AdvanceNeedsAHostedStep :
    let hosting := withC0 (runningChannel timedStep hostedStep 1) enabled
    let timing := withC0 (runningChannel timedStep hostedStep 0) enabled
    ((fetchingFrom 0 hosting).Dispatches .advance 9 0 3 (owned .advance 0 hosting) ∧
      (((owned .advance 0 hosting).channel 0).isOn = true ∧
        ((owned .advance 0 hosting).channel 0).store.activeBank.read ((owned .advance 0 hosting).channel 0).seq.currentStep =
          some hostedStep ∧ hostedStep.mode = .hosted 5)) ∧
    ((fetchingFrom 0 timing).Dispatches .advance 9 0 3 (owned .advance 0 timing) ∧
      ((owned .advance 0 timing).channel 0).store.activeBank.read ((owned .advance 0 timing).channel 0).seq.currentStep =
        some timedStep) ∧
    (fetched.Dispatches .advance 9 0 3 (owned .advance 0 idle) ∧ ((owned .advance 0 idle).channel 0).isOn = false) :=
  ⟨⟨dispatches_from_sq0 9 0 rfl (by decide +kernel) rfl (fun _ => rfl), by decide +kernel⟩,
    ⟨dispatches_from_sq0 9 0 rfl (by decide +kernel) rfl (fun _ => rfl), by decide +kernel⟩,
    ⟨dispatches_from_sq0 9 0 rfl (by decide +kernel) rfl (fun _ => rfl), by decide +kernel⟩⟩

/-- A timeout reached at 1200 with the forced count one below its limit of 3 and two below, not reached at 1199, and cancelled. -/
theorem meets_TimeoutForcesAdvance :
    let at1200 (n : Nat) : Channel := { atTimer 1200 sensing with est := { (atTimer 1200 sensing).est with forcedCount := n } }
    (withC0 sensing enabled).resetPin = false ∧ (withC0 sensing enabled).settle.channel 0 = sensing ∧ sensing.isOn = true ∧
      sensing.store.activeBank.read sensing.seq.currentStep = some (sensedStep 0) ∧ sensing.seq.edgeTaken = false ∧
      ((at1200 2).seq.windows.timeout ≤ (at1200 2).est.stepTimer ∧
        (at1200 2).est.forcedCount + 1 = (at1200 2).settings.forcedLimit) ∧
      ((at1200 1).seq.windows.timeout ≤ (at1200 1).est.stepTimer ∧
        (at1200 1).est.forcedCount + 1 ≠ (at1200 1).settings.forcedLimit) ∧
      (atTimer 1199 sensing).est.stepTimer < (atTimer 1199 sensing).seq.windows.timeout ∧
      (delaying 1200).seq.edgeTaken = true := by decide +kernel

theorem meets_DelaysAndLengthsEndSteps :
    let timing := runningChannel timedStep markStep 0
    let scaled : StepRecord := { timedStep with mode := .scaled 1 }
    let scaling := runningChannel scaled markStep 0
    ((delaying 1150).isOn = true ∧ (delaying 1150).store.activeBank.read (delaying 1150).seq.currentStep = some (sensedStep 0) ∧
      (delaying 1150).seq.edgeTaken = true ∧
      (delaying 1150).seq.edgeTimer + (delaying 1150).seq.windows.delay ≤ (delaying 1150).est.stepTimer ∧
      (delaying 1149).est.stepTimer < (delaying 1149).seq.edgeTimer + (delaying 1149).seq.windows.delay) ∧
    (timing.isOn = true ∧ timing.store.activeBank.read timing.seq.currentStep = some timedStep ∧ timedStep.mode = .timed 3) ∧
    (scaling.isOn = true ∧ scaling.store.activeBank.read scaling.seq.currentStep = some scaled) := by decide +kernel

theorem meets_HostLimitAndTripFault :
    let hosting := runningChannel timedStep hostedStep 1
    (hosting.isOn = true ∧ hosting.store.activeBank.read hosting.seq.currentStep = some hostedStep ∧
      hosting.settings.tripLevel = .high) ∧
    (readyChannel timedStep markStep).isOn = false := by decide +kernel

theorem meets_FaultEntryEndsPendingCommands :
    let swap := swapping (runningChannel timedStep markStep 1)
    (swap.isOn = true ∧ swap.store.standby = .swapPending 5 ∧ swap.seq.state = .running) ∧
      ((stoppingChannel swap 0 0).isOn = true ∧
        (stoppingChannel swap 0 0).seq.state = .stopping { deadline := 0, count := 0, slot := 5 }) ∧
      ((runningChannel timedStep markStep 1).isOn = true ∧ (runningChannel timedStep markStep 1).store.standby = .empty) ∧
      (FaultCause.trip ≠ .engine ∧ ∀ k, (withC0 (runningChannel timedStep markStep 1) enabled).slot k = .free) ∧
      (readyChannel timedStep markStep).isOn = false := by decide +kernel

/-- A deadline of 7 counted 7 and counted 6, and a deadline of 0. -/
theorem meets_StopsEndTheRun :
    let stop (d n : Nat) : State := withC0 (stoppingChannel (runningChannel timedStep markStep 0) d n) enabled
    ((stop 7 7).settle.channel 0).seq.state = .stopping { deadline := 7, count := 7, slot := 5 } ∧
      ((stop 7 6).settle.channel 0).seq.state = .stopping { deadline := 7, count := 6, slot := 5 } ∧
      ((stop 0 0).settle.channel 0).seq.state = .stopping { deadline := 0, count := 0, slot := 5 } ∧
      (swapping (runningChannel timedStep markStep 1)).store.standby = .swapPending 5 := by decide +kernel

theorem meets_StopIsTakenByModeAndState :
    let on := withC0 (runningChannel timedStep markStep 0) enabled
    (fetchingFrom 0 on).Dispatches .stop 9 0 3 (owned .stop 0 on) ∧ fetched.Dispatches .stop 9 0 3 (owned .stop 0 idle) :=
  ⟨dispatches_from_sq0 9 0 rfl (by decide +kernel) rfl (fun _ => rfl),
    dispatches_from_sq0 9 0 rfl (by decide +kernel) rfl (fun _ => rfl)⟩

theorem meets_ClearFaultIsChecked :
    let fault := (runningChannel timedStep markStep 0).leave (.fault .trip)
    let cleared := withC0 fault enabled
    let tripped := withC0 (fault.withTripLine .high) enabled
    ((fetchingFrom 0 cleared).Dispatches .clearFault 9 0 3 (owned .clearFault 0 cleared) ∧
      ((owned .clearFault 0 cleared).channel 0).seq.state = .fault .trip ∧
      ((owned .clearFault 0 cleared).channel 0).sense.tripLine ≠ ((owned .clearFault 0 cleared).channel 0).settings.tripLevel) ∧
    ((fetchingFrom 0 tripped).Dispatches .clearFault 9 0 3 (owned .clearFault 0 tripped) ∧
      ((owned .clearFault 0 tripped).channel 0).seq.state = .fault .trip ∧
      ((owned .clearFault 0 tripped).channel 0).sense.tripLine = ((owned .clearFault 0 tripped).channel 0).settings.tripLevel) ∧
    (fetched.Dispatches .clearFault 9 0 3 (owned .clearFault 0 idle) ∧ ((owned .clearFault 0 idle).channel 0).seq.state = .idle) :=
  ⟨⟨dispatches_from_sq0 9 0 rfl (by decide +kernel) rfl (fun _ => rfl), by decide +kernel⟩,
    ⟨dispatches_from_sq0 9 0 rfl (by decide +kernel) rfl (fun _ => rfl), by decide +kernel⟩,
    ⟨dispatches_from_sq0 9 0 rfl (by decide +kernel) rfl (fun _ => rfl), by decide +kernel⟩⟩

/-- A valid span one below and at the minimum interval, an invalid one at its bounds 0 and 65535, and a delay of 0. -/
theorem meets_TakenEdgeUpdatesTheReference :
    let valid (ch : Channel) : Prop := ch.est.spanValid = true ∧ 1 ≤ ch.est.spanCounter ∧ ch.est.spanCounter ≤ 65534
    (valid (spanAt 1) ∧ valid (spanAt 65534) ∧ (820 ≠ 0 ∧ 819 < 820) ∧ ¬(820 < 820)) ∧ ¬valid (spanAt 0) ∧ ¬valid (spanAt 65535) ∧
      (runningChannel timedStep { sensedStep 0 with mode := .sensed 1 .falling 64 0 96 } 1).seq.windows.delay = 0 := by
  refine ⟨⟨?_, ?_, by decide, by decide⟩, ?_, ?_, by decide +kernel⟩ <;> decide +kernel

/-- A channel in a sensed step of delay 0 on S1, its next a sensed step of blank end 0 on S2. -/
def twoWatches : Channel :=
  let ch := runningChannel { timedStep with mode := .sensed 2 .falling 0 96 96 } { timedStep with mode := .sensed 1 .falling 0 0 96, next := 0 } 1
  { ch with sense := { ch.sense with accepted := Table.fill 3 .high } }

/-- No edge; an edge on the watched line alone; two edges, and three, each taken by the step entered; a blank end reached and not. -/
theorem meets_EdgesAreTakenBySensedSteps :
    let u := (withC0 (twoWatches.sampled (lines .high .low .low)) enabled).takeEdge 0
    let u' := (withC0 (threeWatches.sampled (lines .low .low .low)) enabled).takeEdge 0
    ((withC0 sensing enabled).resetPin = false ∧ (withC0 sensing enabled).settle.channel 0 = sensing ∧ sensing.isOn = true) ∧
      sensing.sense.After (sensing.sampled (lines .high .low .high)).sense (2 ^ sensing.settings.filter) (lines .high .low .high) ∧
      (∀ l, ¬sensing.makesEdge (lines .high .high .high) l) ∧
      (sensing.makesEdge (lines .high .low .high) 1 ∧ sensing.awaits 1 .low ∧
        ∀ m, m ≠ 1 → ¬sensing.makesEdge (lines .high .low .high) m) ∧
      (twoWatches.makesEdge (lines .high .low .low) 1 ∧ twoWatches.awaits 1 .low ∧
        twoWatches.makesEdge (lines .high .low .low) 2 ∧ (u.channel 0).awaits 2 .low ∧
        ∀ n, n ≠ 1 → n ≠ 2 → ¬twoWatches.makesEdge (lines .high .low .low) n) ∧
      ((withC0 threeWatches enabled).settle.channel 0 = threeWatches ∧
        threeWatches.makesEdge (lines .low .low .low) 0 ∧ threeWatches.awaits 0 .low ∧
        threeWatches.makesEdge (lines .low .low .low) 1 ∧ (u'.channel 0).awaits 1 .low ∧
        threeWatches.makesEdge (lines .low .low .low) 2 ∧ ((u'.takeEdge 0).channel 0).awaits 2 .low) ∧
      ((atTimer 200 sensing).seq.windows.blankEnd ≤ (atTimer 200 sensing).est.stepTimer ∧
        (atTimer 199 sensing).est.stepTimer < (atTimer 199 sensing).seq.windows.blankEnd) := by
  have awaits_of : ∀ {ch : Channel} {l : LineId} {r : StepRecord} {blank delay timeout : Nat}, ch.isOn = true →
      ch.seq.blankFound = true → ch.seq.edgeTaken = false → ch.store.activeBank.read ch.seq.currentStep = some r →
      r.mode = .sensed l .falling blank delay timeout → ch.awaits l .low := fun h1 h2 h3 h4 h5 =>
    ⟨h1, h2, h3, _, .falling, _, _, _, h4, h5, by decide⟩
  refine ⟨by decide +kernel, ⟨rfl, rfl, by decide +kernel, by decide +kernel, by decide +kernel⟩, ?_, ⟨?_, ?_, ?_⟩,
    ⟨?_, ?_, ?_, ?_, ?_⟩, ⟨by decide +kernel, ?_, ?_, ?_, ?_, ?_, ?_⟩, by decide +kernel⟩
  case refine_3 => exact awaits_of (r := sensedStep 0) (by decide +kernel) (by decide +kernel) (by decide +kernel) (by decide +kernel) rfl
  all_goals first
    | (unfold Channel.makesEdge; decide +kernel)
    | exact awaits_of (r := watching 0 1) (by decide +kernel) (by decide +kernel) (by decide +kernel) (by decide +kernel) rfl
    | exact awaits_of (r := watching 1 2) (by decide +kernel) (by decide +kernel) (by decide +kernel) (by decide +kernel) rfl
    | exact awaits_of (r := watching 1 0) (by decide +kernel) (by decide +kernel) (by decide +kernel) (by decide +kernel) rfl
    | exact awaits_of (r := watching 2 0) (by decide +kernel) (by decide +kernel) (by decide +kernel) (by decide +kernel) rfl
    | exact awaits_of (r := { timedStep with mode := .sensed 2 .falling 0 96 96 })
        (by decide +kernel) (by decide +kernel) (by decide +kernel) (by decide +kernel) rfl

theorem meets_TicksCount :
    let ch := runningChannel timedStep markStep 0
    ((withC0 ch enabled).resetPin = false ∧ (withC0 ch enabled).settle.channel 0 = ch ∧ ch.blankDue = false ∧
      ch.windowDue = false ∧ ch.deadlineDue = false ∧ ch.isOn = true) ∧
    ((readyChannel timedStep markStep).isOn = false ∧ (readyChannel timedStep markStep).blankDue = false ∧
      (readyChannel timedStep markStep).windowDue = false ∧ (readyChannel timedStep markStep).deadlineDue = false) ∧
    ((spanAt 65534).isOn = true ∧ (spanAt 65534).est.spanCounter = 65534 ∧ (spanAt 65534).blankDue = false ∧
      (spanAt 65534).windowDue = false ∧ (spanAt 65534).deadlineDue = false ∧ (spanAt 65535).est.spanCounter = 65535 ∧
      (spanAt 65533).est.spanCounter < 65534) ∧
    (let blank := atTimer 200 { sensing with seq := { sensing.seq with blankFound := false } }
     (withC0 blank enabled).settle.channel 0 = blank ∧ blank.isOn = true ∧ blank.current = some (sensedStep 0) ∧
      blank.blankDue = true ∧ blank.windowDue = false ∧ blank.deadlineDue = false) ∧
    ((atTimer 1200 sensing).windowDue = true ∧ (delaying 1150).windowDue = true ∧ (atTimer 3 ch).windowDue = true ∧
      (atTimer 5 (runningChannel timedStep hostedStep 1)).windowDue = true ∧ (atTimer 3 ch).deadlineDue = false) ∧
    ((stoppingChannel ch 7 7).deadlineDue = true ∧ (stoppingChannel ch 7 7).windowDue = false ∧
      (stoppingChannel (atTimer 3 ch) 7 7).windowDue = true ∧ (stoppingChannel (atTimer 3 ch) 7 7).deadlineDue = true) := by
  decide +kernel

theorem meets_PeriodStartsTakeTheDuty :
    (fetched.Dispatches .setDuty 9 0 3 (owned .setDuty 0 idle) ∧ channelOf 0 = some 0) ∧
      ((withC0 ((readyChannel timedStep markStep).withShadow 4096) enabled).settle.channel 0 =
          (readyChannel timedStep markStep).withShadow 4096 ∧
        ((readyChannel timedStep markStep).withShadow 4096).pwm.shadow = some 4096 ∧
        (readyChannel timedStep markStep).pwm.shadow = none ∧
        (runningChannel { timedStep with duty := some 0 } markStep 0).pwm.override = .staged 0) :=
  ⟨⟨dispatches_from_sq0 9 0 rfl (by decide +kernel) rfl (fun _ => rfl), rfl⟩, by decide +kernel⟩

theorem meets_GateLinesFollowTheLegState :
    (readyChannel timedStep markStep).isOn = false ∧ (runningChannel timedStep markStep 0).isOn = true := by decide +kernel

/-- Settings at their bounds, spelled by a SET_CHANNEL. -/
def boundSettings : Settings :=
  { prescale := 7, shift := 4, forcedLimit := 15, minInterval := 65535, period := 4096, filter := 3, tripLevel := .low,
    reportCq := some 1 }

theorem meets_SetChannelIsChecked :
    boundSettings.SpelledBy 7 4 15 3 1 1 65535 4096 ∧
      (fetched.Dispatches .setChannel 9 0 3 (owned .setChannel 0 idle) ∧ ((owned .setChannel 0 idle).cq 1).state = .opened ∧
        ((owned .setChannel 0 idle).channel 0).seq.state = .idle) :=
  ⟨⟨⟨rfl, by decide⟩, ⟨rfl, by decide⟩, ⟨rfl, by decide⟩, rfl, ⟨rfl, by decide⟩, ⟨rfl, by decide⟩, .inr ⟨rfl, rfl⟩,
      .inr ⟨1, by decide, rfl, rfl⟩⟩,
    dispatches_from_sq0 9 0 rfl (by decide +kernel) rfl (fun _ => rfl), by decide +kernel⟩

/-- Settings that no field spells (a forced limit of 0), a report CQ that is closed, and a running channel. -/
theorem meets_SetChannelIsChecked_refusals :
    let on := withC0 (runningChannel timedStep markStep 0) enabled
    (¬∃ x : Settings, x.SpelledBy 7 4 0 3 1 1 65535 4096) ∧
      ({ boundSettings with reportCq := some 7 }.SpelledBy 7 4 15 3 1 7 65535 4096 ∧ ((owned .setChannel 0 idle).cq 7).state ≠ .opened) ∧
      ((fetchingFrom 0 on).Dispatches .setChannel 9 0 3 (owned .setChannel 0 on) ∧
        ((owned .setChannel 0 on).channel 0).seq.state ≠ .idle) :=
  ⟨fun ⟨_, h⟩ => absurd h.forcedLimit.2.1 (by decide),
    ⟨⟨⟨rfl, by decide⟩, ⟨rfl, by decide⟩, ⟨rfl, by decide⟩, rfl, ⟨rfl, by decide⟩, ⟨rfl, by decide⟩, .inr ⟨rfl, rfl⟩,
      .inr ⟨7, by decide, rfl, rfl⟩⟩, by decide +kernel⟩,
    ⟨dispatches_from_sq0 9 0 rfl (by decide +kernel) rfl (fun _ => rfl), by decide +kernel⟩⟩

theorem meets_ReadChannelWritesASnapshot :
    fetched.Dispatches .readChannel 9 0 3 (owned .readChannel 0 idle) ∧
      (withBegun (.snapshot 5) (withWorking .readChannel enabled)).resetPin = false ∧
      (withBegun (.snapshot 5) (withWorking .readChannel enabled)).settle.port.answers (.snapshot 5) = true ∧
      (withBegun (.snapshot 5) (withWorking .readChannel enabled)).settle.port.fails (.snapshot 5) = true ∧
      (∀ x ∈ [withEngine .fatal (discardedBy (.snapshot 5) enabled), withEngine .halting (discardedBy (.snapshot 5) enabled)],
        x.resetPin = false ∧ x.settle.port.hasDiscarded (.snapshot 5) = true) ∧
      (enabled.settle.port.hasDiscarded (.snapshot 5) = false ∧ enabled.settle.port.answers (.snapshot 5) = false ∧
        enabled.settle.port.fails (.snapshot 5) = false) :=
  ⟨dispatches_from_sq0 9 0 rfl (by decide +kernel) rfl (fun _ => rfl), by decide +kernel⟩

/-- Section 6.5.1: two commands of one queue and tag, the older first. -/
def twoMatches : State :=
  { withWorking .commitSteps enabled with
    slots := (withWorking .commitSteps enabled).slots.write 6 (.working { workingOf .readChannel with age := 1 }) }

theorem meets_CancelFindsTheOldestMatch :
    let s := withWorking .commitSteps enabled
    ((fetchingFrom 0 s).Dispatches .cancel 9 0 3 (owned .cancel 0 s) ∧
      (owned .cancel 0 s).slot 5 = .working (workingOf .commitSteps) ∧
      ∀ i, i ≠ 3 → i ≠ 5 → (owned .cancel 0 s).slot i = .free) ∧
    (fetched.Dispatches .cancel 9 0 3 (owned .cancel 0 idle) ∧ ∀ i, i ≠ 3 → (owned .cancel 0 idle).slot i = .free) ∧
    ((fetchingFrom 0 twoMatches).Dispatches .cancel 9 0 3 (owned .cancel 0 twoMatches) ∧
      (owned .cancel 0 twoMatches).slot 6 = .working { workingOf .readChannel with age := 1 } ∧
      (owned .cancel 0 twoMatches).slot 5 = .working (workingOf .commitSteps) ∧ (1 : Nat) < (workingOf .commitSteps).age ∧
      ∀ i, i ≠ 3 → i ≠ 5 → i ≠ 6 → (owned .cancel 0 twoMatches).slot i = .free) :=
  ⟨⟨dispatches_from_sq0 9 0 rfl (by decide +kernel) rfl (fun _ => rfl), by decide +kernel⟩,
    ⟨dispatches_from_sq0 9 0 rfl (by decide +kernel) rfl (fun _ => rfl), by decide +kernel⟩,
    ⟨dispatches_from_sq0 9 0 rfl (by decide +kernel) rfl (fun _ => rfl), by decide +kernel⟩⟩

/-- Requests for a load, a pending swap and a graceful stop that still wait, that wait no more, and for a slot with a later fetch. -/
theorem meets_CancelRequestsAreAnswered :
    let load := cancelling .loadSteps (loadingChannel [timedStep])
    let swap := cancelling .commitSteps (swapping (runningChannel timedStep markStep 0))
    let stop := cancelling .stop (stoppingChannel (runningChannel timedStep markStep 0) 0 0)
    let gone (code : CommandCode) : State := cancelling code (runningChannel timedStep markStep 0)
    let later := { swap with cancels := [{ canceller := 3, target := 5, targetAge := 1 }] }
    (load.resetPin = false ∧ load.settle.cancels.find? (fun y => y.canceller == 3) = some { canceller := 3, target := 5, targetAge := 2 } ∧
      load.settle.slot 5 = .working (workingOf .loadSteps) ∧ (load.settle.channel 0).store.standby.waits = true) ∧
    (swap.settle.slot 5 = .working (workingOf .commitSteps) ∧ (swap.settle.channel 0).store.standby = .swapPending 5) ∧
    (stop.settle.slot 5 = .working (workingOf .stop) ∧
      (stop.settle.channel 0).seq.state = .stopping { deadline := 0, count := 0, slot := 5 }) ∧
    ((gone .commitSteps).settle.slot 5 = .working (workingOf .commitSteps) ∧
      ((gone .commitSteps).settle.channel 0).store.standby = .empty ∧ ((gone .stop).settle.channel 0).seq.state = .running ∧
      (gone .loadSteps).settle.slot 5 = .working (workingOf .loadSteps)) ∧
    (later.settle.slot 5 = .working (workingOf .commitSteps) ∧ (workingOf .commitSteps).age ≠ 1) := by decide +kernel

theorem meets_SubmissionQueuesOpenAndClose :
    let s := withWorking .advance enabled
    (fetched.Dispatches .openSq 9 0 3 (owned .openSq 0 idle) ∧ (7 : QueueId) ≠ 0 ∧ (7 : Byte).toNat = (7 : QueueId).val) ∧
      (fetched.Dispatches .closeSq 9 0 3 (owned .closeSq 0 idle) ∧ ((owned .closeSq 0 idle).sq 1).state = .opened ∧
        (∀ j, ((owned .closeSq 0 idle).slot j).sqId ≠ some 1) ∧ ((owned .closeSq 0 idle).sq 7).state = .closed) ∧
      ((fetchingFrom 0 s).Dispatches .closeSq 9 0 3 (owned .closeSq 0 s) ∧ ((owned .closeSq 0 s).slot 5).sqId = some 1) ∧
      ((fetchingFrom 0 (closing 0)).Dispatches .closeSq 9 0 3 (owned .closeSq 0 (closing 0)) ∧
        ((owned .closeSq 0 (closing 0)).sq 1).state = .closing (some 3)) :=
  ⟨⟨dispatches_from_sq0 9 0 rfl (by decide +kernel) rfl (fun _ => rfl), by decide⟩,
    ⟨dispatches_from_sq0 9 0 rfl (by decide +kernel) rfl (fun _ => rfl), by decide +kernel⟩,
    ⟨dispatches_from_sq0 9 0 rfl (by decide +kernel) rfl (fun _ => rfl), by decide +kernel⟩,
    ⟨dispatches_from_sq0 9 0 rfl (by decide +kernel) rfl (fun _ => rfl), by decide +kernel⟩⟩

/-- An enabled part with one record posted on a queue. -/
def posted (q : QueueId) : State := { enabled with sqs := enabled.sqs.write q { enabled.sqs.read q with tail := 1 } }

theorem meets_ArbiterChoosesByClassAndRound :
    (posted 0).eligible 0 = true ∧ (posted 1).eligible 0 = false ∧ (posted 1).eligible 1 = true ∧
      ((posted 1).sq 1).priority = .level 1 := by decide +kernel

theorem meets_FetchStartsOnTheChosenQueue :
    ((posted 1).resetPin = false ∧ (posted 1).engine.state = .running ∧ (posted 1).fetch = none ∧ (posted 1).choose = some 1 ∧
      (posted 1).freeSlot = some 0 ∧ ((posted 1).sq 1).boundCq = some 1) ∧
    (State.freeSlot { enabled with slots := enabled.slots.map fun _ => .fetching 7 1 1 } = none ∧
      (withWorking .advance enabled).freeSlot = some 0) ∧
    enabled.choose = none ∧ fetched.fetch ≠ none ∧ State.reset.engine.state ≠ .running := by decide +kernel

theorem meets_FailedFetchesBreakTheQueue :
    let s := fetchingFrom 1 enabled
    (s.resetPin = false ∧ s.settle.fetch = some { sq := 1, index := 0, slot := 3 } ∧ s.settle.port.fails (.fetch 1) = true ∧
      s.settle.slot 3 = .fetching 7 1 1) ∧
    (fetched.settle.fetch = some { sq := 0, index := 0, slot := 3 } ∧ fetched.settle.port.fails (.fetch 0) = true ∧
      fetched.settle.slot 3 = .fetching 7 0 0) ∧
    (∀ x ∈ [withEngine .fatal strayFetch, withEngine .halting strayFetch],
      x.resetPin = false ∧ x.settle.fetch = none ∧ x.settle.port.hasDiscarded (.fetch 1) = true ∧
        ∀ p, p ≠ 1 → x.settle.port.hasDiscarded (.fetch p) = false) ∧
    (enabled.settle.fetch = none ∧ ∀ p, enabled.settle.port.hasDiscarded (.fetch p) = false) := by decide +kernel

/-- CQ1 is bound; with SQ1 closed and no report CQ and an empty list it may close. -/
theorem meets_CompletionQueuesOpenAndClose :
    let unbound := { enabled with sqs := enabled.sqs.write 1 .reset }
    (fetched.Dispatches .openCq 9 0 3 (owned .openCq 0 idle) ∧ ((owned .openCq 0 idle).cq 7).state = .closed) ∧
      (fetched.Dispatches .closeCq 9 0 3 (owned .closeCq 0 idle) ∧ ((owned .closeCq 0 idle).cq 1).state ≠ .closed ∧
        ((owned .closeCq 0 idle).sq 1).state ≠ .closed ∧ ((owned .closeCq 0 idle).sq 1).boundCq = some 1) ∧
      ((fetchingFrom 0 unbound).Dispatches .closeCq 9 0 3 (owned .closeCq 0 unbound) ∧
        ((owned .closeCq 0 unbound).cq 1).state ≠ .closed ∧
        (∀ i, ((owned .closeCq 0 unbound).sq i).state ≠ .closed → ((owned .closeCq 0 unbound).sq i).boundCq ≠ some 1) ∧
        (∀ c, ((owned .closeCq 0 unbound).channel c).settings.reportCq ≠ some 1 ∧
          ((owned .closeCq 0 unbound).channel c).seq.held = none) ∧ ((owned .closeCq 0 unbound).cq 1).list = []) :=
  ⟨⟨dispatches_from_sq0 9 0 rfl (by decide +kernel) rfl (fun _ => rfl), by decide +kernel⟩,
    ⟨dispatches_from_sq0 9 0 rfl (by decide +kernel) rfl (fun _ => rfl), by decide +kernel⟩,
    ⟨dispatches_from_sq0 9 0 rfl (by decide +kernel) rfl (fun _ => rfl), by decide +kernel⟩⟩

/-- A write that ends: with a vector at the threshold, below it, with a notice, without a vector, and while HALTING. -/
theorem meets_RingWritesMoveTheTail :
    let s := writing 1 done enabled
    let silent := { s with cqs := s.cqs.write 1 { s.cqs.read 1 with vector := none } }
    let slow := writing 1 done coalescing
    let slower := { slow with vectors := { slow.vectors with unsignalled := slow.vectors.unsignalled.write 1 2 } }
    (s.resetPin = false ∧ s.settle.port.answers (.cqWrite 1) = true ∧ (s.settle.cq 1).list = [done] ∧ s.engine.state ≠ .halting ∧
      (s.settle.cq 1).vector = some 1 ∧ (s.settle.cq 1).threshold ≤ s.settle.vectors.unsignalled.read 1 + 1) ∧
    (silent.settle.port.answers (.cqWrite 1) = true ∧ (silent.settle.cq 1).list = [done] ∧ (silent.settle.cq 1).vector = none) ∧
    (slow.settle.port.answers (.cqWrite 1) = true ∧
      (slow.settle.cq 1).threshold ≤ slow.settle.vectors.unsignalled.read 1 + 1) ∧
    (slower.settle.port.answers (.cqWrite 1) = true ∧ (slower.settle.cq 1).list = [done] ∧
      slower.settle.vectors.unsignalled.read 1 + 1 < (slower.settle.cq 1).threshold) ∧
    (withEngine .halting s).settle.port.answers (.cqWrite 1) = true := by decide +kernel

theorem meets_FailedRingWritesBreakTheQueue :
    let s := writing 1 done enabled
    let admin := writing 0 done enabled
    (s.resetPin = false ∧ s.settle.port.fails (.cqWrite 1) = true ∧ s.engine.state ≠ .halting) ∧
      (withEngine .halting s).settle.port.fails (.cqWrite 1) = true ∧
      (admin.settle.port.fails (.cqWrite 0) = true ∧ admin.engine.state = .running) ∧
      (withEngine .fatal admin).settle.port.fails (.cqWrite 0) = true ∧
      (withEngine .halting admin).settle.port.fails (.cqWrite 0) = true := by decide +kernel

/-- A tail of 31 and of 32 in a ring of 32; releases up to the tail and one past it; a closed queue; HALTING. -/
theorem meets_PostsAndReleasesAreChecked :
    enabled.resetPin = false ∧ enabled.engine.state ≠ .halting ∧
      ((enabled.settle.sq 1).state = .opened ∧ (31#10).toNat < (enabled.settle.sq 1).size ∧
        (enabled.settle.sq 1).size ≤ (32#10).toNat) ∧ (enabled.settle.sq 7).state ≠ .opened ∧
      ((ringFull.settle.cq 1).state = .opened ∧ (7#10).toNat < (ringFull.settle.cq 1).size ∧
        goRound (ringFull.settle.cq 1).head (7#10).toNat 8 ≤ goRound (ringFull.settle.cq 1).head (ringFull.settle.cq 1).tail 8) ∧
      goRound (enabled.settle.cq 1).head (enabled.settle.cq 1).tail 64 < goRound (enabled.settle.cq 1).head (1#10).toNat 64 ∧
      (withEngine .halting enabled).engine.state = .halting := by decide +kernel

theorem meets_VectorsSignalAndClear :
    coalescing.resetPin = false ∧ coalescing.settle.vectors.timers.read 1 = some 49 ∧ (coalescing.settle.cq 1).vector = some 1 ∧
      enabled.settle.vectors.timers.read 1 = none := by decide +kernel

/-- A SET_WINDOW that passes, one refused for its number, one refused for a load in flight, two that would leave open rings outside their window,
of them one of length 0, and one of length 0 that passes. -/
theorem meets_SetWindowIsChecked :
    let s := withWorking .loadSteps enabled
    (fetched.Dispatches .setWindow 9 0 3 (owned .setWindow 0 idle) ∧ (3 : Byte).toNat = (3 : Fin 4).val ∧
      (4294967232 % 64 = 0 ∧ (0 : Addr).toNat + 4294967232 ≤ 2 ^ 64) ∧ 3 < (4 : Byte).toNat ∧
      (∀ j, ((owned .setWindow 0 idle).slot j).movesData = false)) ∧
    ((fetchingFrom 0 s).Dispatches .setWindow 9 0 3 (owned .setWindow 0 s) ∧
      ((owned .setWindow 0 s).slot 5).movesData = true) ∧
    (let u := owned .setWindow 0 idle
     let off : Window := { base := 0, length := 0, grantsRead := false, grantsWrite := false }
     let small : Window := { base := 0x10000, length := 64, grantsRead := true, grantsWrite := true }
     ((u.sq 1).state = .opened ∧ inOneWindow (u.windows.write 2 off) .read (u.sq 1).base.toNat (32 * (u.sq 1).size) = false ∧
        inOneWindow (u.windows.write 2 small) .read (u.sq 1).base.toNat (32 * (u.sq 1).size) = false ∧
        inOneWindow (u.windows.write 2 small) .write (u.cq 1).base.toNat (16 * (u.cq 1).size) = false ∧ (u.cq 1).state = .opened) ∧
      ∀ w ∈ [off, { small with base := 0, length := 4294967232 }], ∀ q : QueueId, q ≠ 0 →
        ((u.sq q).state = .opened → inOneWindow (u.windows.write 3 w) .read (u.sq q).base.toNat (32 * (u.sq q).size) = true) ∧
        ((u.cq q).state = .opened → inOneWindow (u.windows.write 3 w) .write (u.cq q).base.toNat (16 * (u.cq q).size) = true)) :=
  ⟨⟨dispatches_from_sq0 9 0 rfl (by decide +kernel) rfl (fun _ => rfl), by decide +kernel⟩,
    ⟨dispatches_from_sq0 9 0 rfl (by decide +kernel) rfl (fun _ => rfl), by decide +kernel⟩, by decide +kernel⟩

/-- Four begun transactions, and three with one waiting; a discarded one, one that is not, and a load waiting for the read of a cancelled one. -/
theorem meets_TransactionsBeginAndEnd :
    let three := withBegun (.fetch 1) (withBegun (.snapshot 1) (withBegun (.snapshot 2) (requesting (.load 0) 0x12000 enabled)))
    let waiting := discardedBy (.load 0) (withC0 (loadingChannel []) enabled)
    (three.resetPin = false ∧ three.port.requests ≠ [] ∧ three.port.begun.length = 3) ∧
      4 ≤ (withBegun (.snapshot 3) three).port.begun.length ∧
      (halting.resetPin = false ∧ halting.settle.port.hasDiscarded (.load 0) = true ∧ halting.settle.port.hasDiscarded (.load 1) = false ∧
        halting.engine.state = .halting ∧ (halting.settle.channel 0).store.standby.waits = false) ∧
      (discardedBy (.snapshot 5) enabled).settle.port.hasDiscarded (.snapshot 5) = true ∧
      (waiting.settle.port.hasDiscarded (.load 0) = true ∧ waiting.engine.state ≠ .halting ∧
        (waiting.settle.channel 0).store.standby.waits = true ∧ (waiting.settle.ended (.load 0)).port.holds (.load 0) = false) ∧
      ∃ t₀ t₁ t₂ t₃ t₄ : State, exec .fetchStart three = .next t₀ ∧ exec .portBeginTransaction t₀ = .next t₁ ∧
        exec .portBeginTransaction t₁ = .next t₂ ∧ exec .portBeginTransaction t₂ = .next t₃ ∧
        exec .portBeginTransaction t₃ = .next t₄ :=
  ⟨by decide +kernel, by decide +kernel, by decide +kernel, by decide +kernel, by decide +kernel,
    _, _, _, _, _, rfl, rfl, rfl, rfl, rfl⟩

theorem meets_EnableChecksTheAdminRings :
    (configured.resetPin = false ∧ configured.settle.engine.state = .halted ∧ configured.settle.engine.adminValid = true) ∧
      State.reset.settle.engine.adminValid = false ∧ enabled.settle.engine.state ≠ .halted := by decide +kernel

theorem meets_RegistersAreWrittenAndRead :
    enabled.resetPin = false ∧ enabled.settle.engine.state ≠ .halted ∧ State.reset.settle.engine.state = .halted ∧
      isIgnoredOffset 0x3C = true ∧ isIgnoredOffset 0x04 = true := by decide +kernel

theorem meets_HaltStopsTheEngine :
    enabled.resetPin = false ∧ enabled.engine.state = .running ∧ (withEngine .fatal enabled).engine.state = .fatal ∧
      State.reset.engine.state = .halted ∧ (halting.engine.state = .halting ∧ halting.settle.port.begun.length ≤ 1) ∧
      (enabled.engine.state ≠ .halting ∧ 1 < (withBegun (.snapshot 5) halting).settle.port.begun.length) := by
  decide +kernel

end Sys2Proof.Tests
end

section
/-! Entering, seeding, counting, branching and advancing as equations in the terms of the statements (R26, R27, R34, R38 to R43), and the statements on step sequencing settled with them. -/

namespace Sys2Proof.Machine

/-! ### Windows and step entry (R26, R27) -/

/-- The cap of a SENSED timeout, spelled as R27 does. -/
theorem windowsOf_sensed (ref : Nat) (line : LineId) (edge : EdgeKind) (blank delay timeout : Nat) :
    windowsOf ref (.sensed line edge blank delay timeout) =
      { blankEnd := ref * blank / 256, delay := ref * delay / 256,
        timeout := if 65535 < ref * timeout / 64 then 65535 else ref * timeout / 64, length := 0, hostLimit := 0 } := by
  have cap : min 65535 (ref * timeout / 64) = if 65535 < ref * timeout / 64 then 65535 else ref * timeout / 64 := by
    split <;> omega
  rw [← cap]
  rfl

/-- The reference itself stands between the two windows: the blank end is below it, and the timeout, capped or not, is not. -/
theorem windowsOf_sensed_blankEnd_lt_timeout {ref blank timeout : Nat} (line : LineId) (edge : EdgeKind) (delay : Nat)
    (hpos : 1 ≤ ref) (hmax : ref ≤ 65535) (hblank : blank ≤ 255) (htimeout : 64 ≤ timeout) :
    (windowsOf ref (.sensed line edge blank delay timeout)).blankEnd <
      (windowsOf ref (.sensed line edge blank delay timeout)).timeout := by
  have blank_lt : ref * blank / 256 < ref := by
    have := Nat.mul_le_mul_left ref hblank
    omega
  have le_uncapped : ref ≤ ref * timeout / 64 := by
    have := Nat.mul_le_mul_left ref htimeout
    omega
  calc ref * blank / 256 < ref := blank_lt
    _ ≤ min 65535 (ref * timeout / 64) := le_min hmax le_uncapped

theorem windowsOf_scaled (ref factor : Nat) :
    windowsOf ref (.scaled factor) =
      { blankEnd := 0, delay := 0, timeout := 0, length := if ref * factor / 64 = 0 then 1 else ref * factor / 64,
        hostLimit := 0 } := by
  have floor : max 1 (ref * factor / 64) = if ref * factor / 64 = 0 then 1 else ref * factor / 64 := by
    split <;> omega
  rw [← floor]
  rfl

theorem windowsOf_scaled_length_le {ref factor : Nat} (href : ref ≤ 65535) (hfactor : factor ≤ 255) :
    (windowsOf ref (.scaled factor)).length ≤ 261116 := by
  have product : ref * factor ≤ 65535 * 255 := Nat.mul_le_mul href hfactor
  show max 1 (ref * factor / 64) ≤ 261116
  omega

/-- What R26 does by the record's parts, in the cases of the statements. -/
theorem Channel.enterRecord_eq_entering (ch : Channel) (i : StepIx) (r : StepRecord) :
    ch.enterRecord i r = ch.entering i r (windowsOf ch.est.reference r.mode) := by
  unfold Channel.enterRecord Channel.entering
  congr 1
  · cases r.mode <;> simp [StepMode.isSensed]
  · cases r.mode <;> simp [StepMode.isSensed]

theorem Channel.enter_eq_entering {ch : Channel} {i : StepIx} {r : StepRecord} (h : ch.store.activeBank.read i = some r) :
    ch.enter i = ch.entering i r (windowsOf ch.est.reference r.mode) := by
  unfold Channel.enter
  rw [h]
  exact ch.enterRecord_eq_entering i r

@[simp] theorem Channel.entering_isOn (ch : Channel) (i : StepIx) (r : StepRecord) (w : Windows) :
    (ch.entering i r w).isOn = ch.isOn := rfl
@[simp] theorem Channel.entering_currentStep (ch : Channel) (i : StepIx) (r : StepRecord) (w : Windows) :
    (ch.entering i r w).seq.currentStep = i := rfl
@[simp] theorem Channel.entering_cycle (ch : Channel) (i : StepIx) (r : StepRecord) (w : Windows) :
    (ch.entering i r w).seq.cycle = ch.seq.cycle := rfl
@[simp] theorem Channel.entering_reference (ch : Channel) (i : StepIx) (r : StepRecord) (w : Windows) :
    (ch.entering i r w).est.reference = ch.est.reference := rfl

/-! ### Seeds and counted marks (R34, R40) -/

/-- The reference after a step with record `r` has been left by advance (R34). -/
def Channel.referenceLeft (ch : Channel) (r : StepRecord) : Nat :=
  if r.seed && r.mode.hasLength then max 1 (min 65535 ch.seq.windows.length) else ch.est.reference

/-- The cycle counter after a step with record `r` has been left by advance (R40). -/
def Channel.cycleLeft (ch : Channel) (r : StepRecord) : Nat :=
  if r.mark then (ch.seq.cycle + 1) % 4294967296 else ch.seq.cycle

theorem Channel.countMark_seeded (ch : Channel) (r : StepRecord) :
    (ch.seeded r).countMark r =
      { ch with est := { ch.est with reference := ch.referenceLeft r }, seq := { ch.seq with cycle := ch.cycleLeft r } } := by
  unfold Channel.seeded Channel.countMark Channel.referenceLeft Channel.cycleLeft
  split <;> split <;> rfl

/-! ### The choice of the next step (R38, R41) -/

/-- The loop owner and counter after a step with record `r` has been left, and the step chosen (R38 items 3 and 4). -/
def Channel.choose (ch : Channel) (r : StepRecord) : Option StepIx × Nat × StepIx :=
  match r.branch with
  | none => (ch.seq.loopOwner, ch.seq.loopCounter, r.next)
  | some b => branchRule ch.seq.loopOwner ch.seq.loopCounter ch.seq.currentStep b r.next

theorem Channel.choose_of_no_branch (ch : Channel) {r : StepRecord} (h : r.branch = none) :
    ch.choose r = (ch.seq.loopOwner, ch.seq.loopCounter, r.next) := by
  unfold Channel.choose
  rw [h]

theorem Channel.choose_of_branch (ch : Channel) {r : StepRecord} {b : Branch} (h : r.branch = some b) :
    ch.choose r = branchRule ch.seq.loopOwner ch.seq.loopCounter ch.seq.currentStep b r.next := by
  unfold Channel.choose
  rw [h]

theorem branchRule_of_pos {owner : Option StepIx} {counter n : Nat} {i : StepIx} {b : Branch} (next : StepIx)
    (hn : n = if owner = some i then counter else b.count) (h : 0 < n) :
    branchRule owner counter i b next = (some i, n - 1, b.target) := by
  unfold branchRule
  dsimp only
  rw [← hn, if_neg h.ne']

theorem branchRule_of_zero {owner : Option StepIx} {counter n : Nat} {i : StepIx} {b : Branch} (next : StepIx)
    (hn : n = if owner = some i then counter else b.count) (h : n = 0) :
    branchRule owner counter i b next = (none, 0, next) := by
  unfold branchRule
  dsimp only
  rw [← hn, if_pos h]

/-- What satisfies the table of R41 is what the channel chooses. -/
theorem Channel.choose_eq {ch : Channel} {r : StepRecord} {owner : Option StepIx} {counter : Nat} {i : StepIx}
    (hnext : r.branch = none → owner = ch.seq.loopOwner ∧ counter = ch.seq.loopCounter ∧ i = r.next)
    (hbranch : ∀ b n, r.branch = some b →
      n = (if ch.seq.loopOwner = some ch.seq.currentStep then ch.seq.loopCounter else b.count) →
      (0 < n → owner = some ch.seq.currentStep ∧ counter = n - 1 ∧ i = b.target) ∧
      (n = 0 → owner = none ∧ counter = 0 ∧ i = r.next)) :
    ch.choose r = (owner, counter, i) := by
  cases hb : r.branch with
  | none =>
    obtain ⟨rfl, rfl, rfl⟩ := hnext hb
    exact ch.choose_of_no_branch hb
  | some b =>
    rw [ch.choose_of_branch hb]
    obtain ⟨n, hn⟩ : ∃ n, n = if ch.seq.loopOwner = some ch.seq.currentStep then ch.seq.loopCounter else b.count := ⟨_, rfl⟩
    obtain ⟨again, last⟩ := hbranch b n hb hn
    rcases Nat.eq_zero_or_pos n with h | h
    · obtain ⟨rfl, rfl, rfl⟩ := last h
      exact branchRule_of_zero r.next hn h
    · obtain ⟨rfl, rfl, rfl⟩ := again h
      exact branchRule_of_pos r.next hn h

theorem Channel.follow_eq_enter (ch : Channel) (r : StepRecord) :
    ch.follow r = Channel.enter
      { ch with seq := { ch.seq with loopOwner := (ch.choose r).1, loopCounter := (ch.choose r).2.1 } } (ch.choose r).2.2 := by
  unfold Channel.follow
  cases h : r.branch with
  | none => rw [ch.choose_of_no_branch h]
  | some b => rw [ch.choose_of_branch h]

/-- Neither the seed nor the counted mark bears on the choice of the next step. -/
theorem Channel.choose_countMark_seeded (ch : Channel) (r : StepRecord) :
    ((ch.seeded r).countMark r).choose r = ch.choose r := by
  rw [Channel.countMark_seeded]
  rfl

/-- The step chosen is entered from the seeded reference (R34, R38). -/
theorem Channel.follow_countMark_seeded {ch : Channel} {r e : StepRecord} {owner : Option StepIx} {counter : Nat} {i : StepIx}
    (hchoose : ch.choose r = (owner, counter, i)) (he : ch.store.activeBank.read i = some e) :
    ((ch.seeded r).countMark r).follow r = Channel.entering
      { ch with
        est := { ch.est with reference := ch.referenceLeft r },
        seq := { ch.seq with cycle := ch.cycleLeft r, loopOwner := owner, loopCounter := counter } }
      i e (windowsOf (ch.referenceLeft r) e.mode) := by
  rw [Channel.follow_eq_enter, Channel.choose_countMark_seeded, hchoose, Channel.countMark_seeded]
  exact Channel.enter_eq_entering he

/-! ### The advance (R38, R43) -/

@[simp] theorem State.withChannel_withChannel (s : State) (c : ChannelId) (x y : Channel) :
    (s.withChannel c x).withChannel c y = s.withChannel c y := by
  simp [State.withChannel]

theorem State.advanceStep_of_current {s : State} {c : ChannelId} {r : StepRecord} (cause : AdvanceCause)
    (h : (s.channel c).current = some r) :
    s.advanceStep c cause =
      (let t := (s.withChannel c (((s.channel c).seeded r).countMark r)).leaveStep c r
       if r.report then t.offerReport c (reportOf c cause (s.channel c) (t.channel c)) else t) := by
  unfold State.advanceStep
  dsimp only
  rw [h]

/-- A step left with nothing taken at a mark is followed by its branch or its next (R38, R39). -/
theorem State.leaveStep_eq_follow {ch : Channel} {r : StepRecord} (s : State) (c : ChannelId)
    (h : r.mark = true → ch.seq.state.graceful = none ∧ ∀ j, ch.store.standby ≠ .swapPending j) :
    (s.withChannel c ch).leaveStep c r = s.withChannel c (ch.follow r) := by
  unfold State.leaveStep
  simp only [State.withChannel_channel_self, State.withChannel_withChannel]
  cases hm : r.mark with
  | false => rfl
  | true =>
    obtain ⟨no_stop, no_swap⟩ := h hm
    rw [no_stop]
    cases hs : ch.store.standby with
    | swapPending k => exact absurd hs (no_swap k)
    | empty => rfl
    | ready => rfl
    | loading l => rfl

/-- The report of an advance that stays in the run names the step entered and reads reference and cycle off the channel entering it (R43). -/
theorem reportOf_entering (c : ChannelId) (cause : AdvanceCause) (before now : Channel) (i : StepIx) (e : StepRecord) (w : Windows)
    (hon : now.isOn = true) :
    reportOf c cause before (now.entering i e w) =
      { channel := c, stepLeft := before.seq.currentStep, bank := before.store.active, cause := cause,
        stepEntered := some i, reference := now.est.reference, cycle := now.seq.cycle % 65536,
        span := if cause = .sensed then before.seq.edgeSpan else none } := by
  simp [reportOf, Channel.entered, hon]

/-! ### The statements -/

/-- Settles O26: step entry in the statement's cases, and the formulas of R27 mode by mode with their two bounds. -/
theorem stepEntryComputesWindows : Obligations.StepEntryComputesWindows := by
  refine ⟨fun ch i r h => Channel.enter_eq_entering h, fun ref line edge blank delay timeout => ⟨?_, ?_⟩,
    fun ref duration => rfl, fun ref factor => ⟨?_, ?_⟩, fun ref limit => rfl⟩
  · exact windowsOf_sensed ref line edge blank delay timeout
  · exact windowsOf_sensed_blankEnd_lt_timeout line edge delay
  · exact windowsOf_scaled ref factor
  · exact windowsOf_scaled_length_le

/-- Settles O27: the channel as it is seeded and counted follows the chosen step, and the report is read off the channel entered. -/
theorem advanceFollowsTheTable : Obligations.AdvanceFollowsTheTable := by
  intro s c cause ch r ref cycle hch hon hr hmark href hcycle owner counter i e hnext hbranch he
  subst hch
  obtain rfl : ref = (s.channel c).referenceLeft r := by
    rw [href]
    unfold Channel.referenceLeft
    cases r.mode <;> simp [StepMode.hasLength]
  obtain rfl : cycle = (s.channel c).cycleLeft r := hcycle
  have nothing_taken : r.mark = true → (((s.channel c).seeded r).countMark r).seq.state.graceful = none ∧
      ∀ j, (((s.channel c).seeded r).countMark r).store.standby ≠ .swapPending j := by
    intro hm
    obtain ⟨running, no_swap⟩ := hmark hm
    rw [Channel.countMark_seeded]
    exact ⟨congrArg ChannelState.graceful running, no_swap⟩
  rw [State.advanceStep_of_current cause hr, State.leaveStep_eq_follow s c nothing_taken,
    Channel.follow_countMark_seeded (Channel.choose_eq hnext hbranch) he]
  dsimp only
  rw [State.withChannel_channel_self, reportOf_entering]
  exact hon

end Sys2Proof.Machine
end

section
/-! The taken edge by the span it finds (R29, R54, R55, R57) and the smoothed reference on both sides of the span (R56), and the statement on the taken edge settled with them. -/

namespace Sys2Proof.Machine

/-! ### The valid span (R54, R55) -/

theorem Estimator.validSpan_of_valid {e : Estimator}
    (h : e.spanValid = true ∧ 1 ≤ e.spanCounter ∧ e.spanCounter ≤ 65534) : e.validSpan = some e.spanCounter := by
  obtain ⟨marked, low, high⟩ := h
  simp [Estimator.validSpan, marked, low, high]

theorem Estimator.validSpan_of_not_valid {e : Estimator}
    (h : ¬(e.spanValid = true ∧ 1 ≤ e.spanCounter ∧ e.spanCounter ≤ 65534)) : e.validSpan = none := by
  simpa [Estimator.validSpan, and_assoc] using h

@[simp] theorem isOverspeed_some (n minInterval : Nat) :
    isOverspeed (some n) minInterval = true ↔ minInterval ≠ 0 ∧ n < minInterval := by
  simp [isOverspeed]

@[simp] theorem isOverspeed_none (minInterval : Nat) : isOverspeed none minInterval = false := rfl

/-! ### The taken edge (R29, R30, R55) -/

theorem State.takeEdge_of_overspeed {s : State} {c : ChannelId}
    (h : isOverspeed (s.channel c).est.validSpan (s.channel c).settings.minInterval = true) :
    s.takeEdge c = (s.withChannel c { s.channel c with est := (s.channel c).est.afterEdge }).faultEntry c .overspeed := by
  unfold State.takeEdge
  exact if_pos h

theorem State.takeEdge_of_not_overspeed {s : State} {c : ChannelId}
    (h : ¬isOverspeed (s.channel c).est.validSpan (s.channel c).settings.minInterval = true) :
    s.takeEdge c =
      if (s.channel c).seq.windows.delay = 0 then (s.withChannel c (s.channel c).edgeRecorded).advanceStep c .sensed
      else s.withChannel c (s.channel c).edgeRecorded := by
  unfold State.takeEdge
  exact if_neg h

/-- A valid span moves the reference and is the span recorded (R29, R54, R56, R57). -/
theorem Channel.edgeRecorded_of_some {ch : Channel} {n : Nat} (h : ch.est.validSpan = some n) :
    ch.edgeRecorded =
      { ch with
        est := { ch.est with
          spanCounter := 0, spanValid := true, forcedCount := 0,
          reference := smoothed ch.est.reference n ch.settings.shift },
        seq := { ch.seq with edgeTaken := true, edgeSpan := some n, edgeTimer := ch.est.stepTimer } } := by
  unfold Channel.edgeRecorded
  rw [h]
  rfl

/-- Without a valid span the reference stays and none is recorded (R29, R54, R57). -/
theorem Channel.edgeRecorded_of_none {ch : Channel} (h : ch.est.validSpan = none) :
    ch.edgeRecorded =
      { ch with
        est := { ch.est with spanCounter := 0, spanValid := true, forcedCount := 0 },
        seq := { ch.seq with edgeTaken := true, edgeSpan := none, edgeTimer := ch.est.stepTimer } } := by
  unfold Channel.edgeRecorded
  rw [h]
  rfl

/-! ### The smoothed reference (R56) -/

theorem smoothed_of_le {reference span : Nat} (k : Nat) (h : reference ≤ span) :
    smoothed reference span k = reference + (span - reference) / 2 ^ k := by
  have quotient : Int.tdiv ((span : Int) - reference) ((2 ^ k : Nat) : Int) = (((span - reference) / 2 ^ k : Nat) : Int) := by
    rw [← Int.ofNat_sub h, Int.ofNat_tdiv]
  unfold smoothed
  rw [quotient, ← Int.natCast_add, Int.toNat_natCast]

/-- Below the reference the difference is negative, and truncation toward zero divides its magnitude. -/
theorem smoothed_of_ge {reference span : Nat} (k : Nat) (h : span ≤ reference) :
    smoothed reference span k = reference - (reference - span) / 2 ^ k := by
  have quotient : Int.tdiv ((span : Int) - reference) ((2 ^ k : Nat) : Int) = -(((reference - span) / 2 ^ k : Nat) : Int) := by
    rw [← Int.neg_sub, ← Int.ofNat_sub h, Int.neg_tdiv, Int.ofNat_tdiv]
  unfold smoothed
  rw [quotient, ← Int.sub_eq_add_neg, Int.toNat_sub]

/-! ### The statement -/

/-- Settles O37: by whether the edge finds a valid span, and for a valid one by the minimum interval; the arithmetic of R56 by the side of the reference the span lies on. -/
theorem takenEdgeUpdatesTheReference : Obligations.TakenEdgeUpdatesTheReference := by
  refine ⟨?_, fun reference span k => ⟨smoothed_of_le k, smoothed_of_ge k⟩⟩
  rintro s c ch rfl valid fast
  refine ⟨fun hvalid hfast => State.takeEdge_of_overspeed ?_, fun t hvalid hinvalid hslow => ?_⟩
  · rw [Estimator.validSpan_of_valid hvalid]
    exact (isOverspeed_some _ _).mpr hfast
  · by_cases h : valid
    · have span : (s.channel c).est.validSpan = some (s.channel c).est.spanCounter := Estimator.validSpan_of_valid h
      have calm : ¬isOverspeed (s.channel c).est.validSpan (s.channel c).settings.minInterval = true := by
        rw [span, isOverspeed_some]
        exact hslow h
      rw [State.takeEdge_of_not_overspeed calm, Channel.edgeRecorded_of_some span, ← hvalid h]
    · have span : (s.channel c).est.validSpan = none := Estimator.validSpan_of_not_valid h
      have calm : ¬isOverspeed (s.channel c).est.validSpan (s.channel c).settings.minInterval = true := by
        rw [span, isOverspeed_none]
        exact Bool.false_ne_true
      rw [State.takeEdge_of_not_overspeed calm, Channel.edgeRecorded_of_none span, ← hinvalid h]

end Sys2Proof.Machine
end

section
/-! The gate lines of a leg by its state (R5), by whether a step is current (R65) and under the wave (R67), and the statement on the gate lines settled with them. -/

namespace Sys2Proof.Machine

/-! ### The wave (R67) -/

/-- The wave is off, and a complementary leg's lower line on, from the period duty to the end of the period (R5, R67). -/
theorem Pwm.not_wave (p : Pwm) : (!p.wave) = decide (p.periodDuty ≤ p.counter) := by
  unfold Pwm.wave
  rw [← decide_not]
  exact decide_eq_decide.mpr Nat.not_lt

/-! ### The lines of a leg (R5, R65) -/

/-- Only PAIR_PWM drives both lines of a leg, and it drives the lower one by the inverted wave (R5). -/
theorem LegState.lines_not_both (wave : Bool) (leg : LegState) :
    ¬((leg.lines wave).1 = true ∧ (leg.lines wave).2 = true) := by
  cases leg with
  | float | upperOn | lowerOn | upperPwm | lowerPwm => simp [LegState.lines]
  | pairPwm => cases wave <;> simp [LegState.lines]

theorem Channel.gateLines_of_on {ch : Channel} (leg : LegState) (on : ch.isOn = true) :
    ch.gateLines leg = leg.lines ch.pwm.wave := if_pos on

theorem Channel.gateLines_of_off {ch : Channel} (leg : LegState) (off : ch.isOn = false) :
    ch.gateLines leg = (false, false) := by
  simp [Channel.gateLines, off]

/-- R65's safety, in a run by the leg-state table and outside one by the lines being off. -/
theorem Channel.gateLines_not_both (ch : Channel) (leg : LegState) :
    ¬((ch.gateLines leg).1 = true ∧ (ch.gateLines leg).2 = true) := by
  cases running : ch.isOn with
  | true =>
    rw [Channel.gateLines_of_on leg running]
    exact leg.lines_not_both ch.pwm.wave
  | false => simp [Channel.gateLines_of_off leg running]

/-! ### The statement -/

/-- Settles O41: by whether a step is current, and in a run row by row of the leg-state table. -/
theorem gateLinesFollowTheLegState : Obligations.GateLinesFollowTheLegState := by
  refine fun ch leg => ⟨ch.gateLines_not_both leg, Channel.gateLines_of_off leg, fun on => ?_⟩
  have row (l : LegState) : ch.gateLines l = l.lines ch.pwm.wave := Channel.gateLines_of_on l on
  refine ⟨row .float, row .upperOn, row .lowerOn, row .upperPwm, row .lowerPwm, ?_⟩
  rw [← Pwm.not_wave]
  exact row .pairPwm

end Sys2Proof.Machine
end

section
/-! What fault entry does by the standby bank and the channel state it finds (R19, R88, R90, R91, R92), and the statement on fault entry settled with them. -/

namespace Sys2Proof.Machine

/-! ### Commands that end -/

/-- The two spellings of a channel that has left its run agree (R82, R90). -/
theorem Channel.leave_eq_resting (ch : Channel) (st : ChannelState) : ch.leave st = ch.resting st := rfl

/-- A FREE slot holds no command to end (R107). -/
theorem State.complete_of_free {s : State} {k : SlotId} (status : Status) (detail : Nat) (free : s.slot k = .free) :
    s.complete k status detail = s := by
  unfold State.complete
  rw [free]

theorem State.completeStop_of_free {s : State} (g : Option Graceful) (status : Status) (free : ∀ k, s.slot k = .free) :
    s.completeStop g status = s := by
  cases g with
  | none => rfl
  | some g => exact State.complete_of_free status 0 (free g.slot)

/-! ### The run ends and a pending swap is withdrawn (R19, R90, R91) -/

theorem State.faultChannel_of_swap {s : State} {c : ChannelId} {k : SlotId} (cause : FaultCause)
    (swap : (s.channel c).store.standby = .swapPending k) :
    s.faultChannel c cause =
      (s.withChannel c { (s.channel c).resting (.fault cause) with
        store := { (s.channel c).store with standby := .ready } }).complete k .channelFault 0 := by
  unfold State.faultChannel
  rw [Channel.leave_eq_resting]
  have kept : ((s.channel c).resting (.fault cause)).store.standby = .swapPending k := swap
  dsimp only
  rw [kept]
  rfl

theorem State.faultChannel_of_no_swap {s : State} {c : ChannelId} (cause : FaultCause)
    (no_swap : ∀ k, (s.channel c).store.standby ≠ .swapPending k) :
    s.faultChannel c cause = s.withChannel c ((s.channel c).resting (.fault cause)) := by
  have kept : ((s.channel c).resting (.fault cause)).store.standby = (s.channel c).store.standby := rfl
  unfold State.faultChannel
  rw [Channel.leave_eq_resting]
  dsimp only
  rw [kept]
  cases h : (s.channel c).store.standby with
  | swapPending k => exact absurd h (no_swap k)
  | empty | ready | loading l => rfl

/-! ### Fault entry by the channel state (R88, R91) -/

theorem State.faultEntry_of_on {s : State} {c : ChannelId} (cause : FaultCause) (on : (s.channel c).isOn = true) :
    s.faultEntry c cause =
      ((s.faultChannel c cause).completeStop (s.channel c).seq.state.graceful .channelFault).offerChannelNotice c cause := by
  unfold State.faultEntry
  exact if_pos on

theorem State.faultEntry_of_running {s : State} {c : ChannelId} (cause : FaultCause)
    (running : (s.channel c).seq.state = .running) :
    s.faultEntry c cause = (s.faultChannel c cause).offerChannelNotice c cause := by
  have on : (s.channel c).isOn = true := congrArg ChannelState.isOn running
  rw [State.faultEntry_of_on cause on, running]
  rfl

theorem State.faultEntry_of_stopping {s : State} {c : ChannelId} {g : Graceful} (cause : FaultCause)
    (stopping : (s.channel c).seq.state = .stopping g) :
    s.faultEntry c cause = ((s.faultChannel c cause).complete g.slot .channelFault 0).offerChannelNotice c cause := by
  have on : (s.channel c).isOn = true := congrArg ChannelState.isOn stopping
  rw [State.faultEntry_of_on cause on, stopping]
  rfl

/-- With no command in any slot and no swap pending, as engine FATAL leaves them, fault entry ends the run and offers the notice (R92). -/
theorem State.faultEntry_of_free {s : State} {c : ChannelId} (cause : FaultCause) (on : (s.channel c).isOn = true)
    (free : ∀ k, s.slot k = .free) (no_swap : ∀ k, (s.channel c).store.standby ≠ .swapPending k) :
    s.faultEntry c cause = (s.withChannel c ((s.channel c).resting (.fault cause))).offerChannelNotice c cause := by
  have still_free (k : SlotId) : (s.withChannel c ((s.channel c).resting (.fault cause))).slot k = .free := by
    rw [State.withChannel_slot]
    exact free k
  rw [State.faultEntry_of_on cause on, State.faultChannel_of_no_swap cause no_swap, State.completeStop_of_free _ _ still_free]

/-! ### The statement -/

/-- Settles O33: by whether the channel is in a run; in one, by whether a swap pends and whether the run is stopping, and with the commands discarded by the FREE slots. -/
theorem faultEntryEndsPendingCommands : Obligations.FaultEntryEndsPendingCommands := by
  rintro s c cause ch rfl
  refine ⟨State.faultEntry_off s c cause, fun _ _ t swap no_swap => ?_, State.faultEntry_of_free .engine⟩
  obtain rfl : t = s.faultChannel c cause := by
    by_cases pends : ∃ k, (s.channel c).store.standby = .swapPending k
    · obtain ⟨k, pending⟩ := pends
      rw [swap k pending, State.faultChannel_of_swap cause pending]
    · have none_pending := not_exists.mp pends
      rw [no_swap none_pending, State.faultChannel_of_no_swap cause none_pending]
  exact ⟨State.faultEntry_of_running cause, fun _ => State.faultEntry_of_stopping cause⟩

end Sys2Proof.Machine
end

section
/-! Eligibility by its five conditions (R127), a class's round as its ids in order of rank (R129), and the arbiter's choice as the least of what may be chosen; the statement on the arbiter settled with them. -/

namespace Sys2Proof.Machine

/-! ### The first hit along an order is the least hit -/

theorem findSome?_eq_some_iff_of_pairwise {α β γ : Type} [Preorder γ] {rank : α → γ} {f : α → Option β} {l : List α}
    (sorted : l.Pairwise fun a b => rank a < rank b) (b : β) :
    l.findSome? f = some b ↔ ∃ a ∈ l, f a = some b ∧ ∀ i ∈ l, (f i).isSome = true → rank a ≤ rank i := by
  induction l with
  | nil => simp
  | cons x xs ih =>
    obtain ⟨x_first, xs_sorted⟩ := List.pairwise_cons.mp sorted
    cases hx : f x with
    | none => simp [hx, ih xs_sorted]
    | some c =>
      have x_least : ∀ i ∈ x :: xs, rank x ≤ rank i := by
        rintro i (_ | ⟨_, hi⟩)
        · exact le_rfl
        · exact (x_first i hi).le
      rw [List.findSome?_cons, hx]
      constructor
      · intro hb
        exact ⟨x, List.mem_cons_self, hx.trans hb, fun i hi _ => x_least i hi⟩
      · rintro ⟨a, ha, hit, least⟩
        have a_le : rank a ≤ rank x := least x List.mem_cons_self (by simp [hx])
        rcases List.mem_cons.mp ha with rfl | later
        · exact hx.symm.trans hit
        · exact absurd (x_first a later) a_le.not_gt

theorem find?_eq_some_iff_of_pairwise {α γ : Type} [Preorder γ] {rank : α → γ} {p : α → Bool} {l : List α}
    (sorted : l.Pairwise fun a b => rank a < rank b) (a : α) :
    l.find? p = some a ↔ a ∈ l ∧ p a = true ∧ ∀ i ∈ l, p i = true → rank a ≤ rank i := by
  rw [List.find?_eq_findSome?_guard, findSome?_eq_some_iff_of_pairwise sorted]
  simp only [Option.guard_eq_some_iff, Option.isSome_guard]
  constructor
  · rintro ⟨_, mem, ⟨rfl, hit⟩, least⟩
    exact ⟨mem, hit, least⟩
  · rintro ⟨mem, hit, least⟩
    exact ⟨a, mem, ⟨rfl, hit⟩, least⟩

/-! ### Eligibility (R127) -/

theorem State.freeSlot_isSome (s : State) : s.freeSlot.isSome = true ↔ ∃ k, s.slot k = .free := by
  simp [State.freeSlot]

theorem State.eligible_iff (s : State) (q : QueueId) :
    s.eligible q = true ↔
      (s.sq q).state = .opened ∧ (s.sq q).pendingEntries ≠ 0 ∧ (∃ k, s.slot k = .free) ∧
      ∃ b, (s.sq q).boundCq = some b ∧ (s.cq b).state = .opened ∧ (s.cq b).reserved < (s.cq b).free := by
  unfold State.eligible
  cases (s.sq q).boundCq with
  | none => simp
  | some b => simp [State.freeSlot_isSome, CqContext.hasRoom, and_assoc]

/-! ### One class's round (R129) -/

theorem mem_roundFrom (last : Option QueueId) (q : QueueId) : q ∈ roundFrom last ↔ q ≠ 0 := by
  revert last q
  decide

/-- A round meets the I/O ids in the order of their distance from the last-served id. -/
theorem roundFrom_pairwise_roundRank_lt (last : Option QueueId) :
    (roundFrom last).Pairwise fun a b => roundRank last a < roundRank last b := by
  revert last
  decide

theorem State.chosenOfClass_eq_some_iff (s : State) (n : Fin 4) (q : QueueId) :
    s.chosenOfClass n = some q ↔
      q ≠ 0 ∧ (s.eligible q = true ∧ (s.sq q).priority = .level n) ∧
      ∀ i, i ≠ 0 → s.eligible i = true ∧ (s.sq i).priority = .level n →
        roundRank (s.lastServed.read n) q ≤ roundRank (s.lastServed.read n) i := by
  unfold State.chosenOfClass
  rw [find?_eq_some_iff_of_pairwise (roundFrom_pairwise_roundRank_lt (s.lastServed.read n))]
  simp only [mem_roundFrom, Bool.and_eq_true, beq_iff_eq]

theorem State.chosenOfClass_isSome (s : State) (n : Fin 4) :
    (s.chosenOfClass n).isSome = true ↔ ∃ q, q ≠ 0 ∧ s.eligible q = true ∧ (s.sq q).priority = .level n := by
  unfold State.chosenOfClass
  simp only [List.find?_isSome, mem_roundFrom, Bool.and_eq_true, beq_iff_eq]

/-! ### The choice (R129) -/

theorem State.choose_of_admin {s : State} (admin : s.eligible 0 = true) : s.choose = some 0 := if_pos admin

/-- Without SQ0 the choice is that of the lowest class whose round meets an eligible queue. -/
theorem State.choose_eq_some_iff_of_not_admin {s : State} (no_admin : s.eligible 0 = false) (q : QueueId) :
    s.choose = some q ↔
      ∃ n, s.chosenOfClass n = some q ∧ ∀ m, (s.chosenOfClass m).isSome = true → n ≤ m := by
  have first_class : s.choose = (List.finRange 4).findSome? s.chosenOfClass := by simp [State.choose, no_admin]
  rw [first_class, findSome?_eq_some_iff_of_pairwise (rank := id) (List.pairwise_lt_finRange 4)]
  simp only [List.mem_finRange, true_and, forall_const, id]

/-! ### The statement -/

/-- Settles O47: eligibility condition by condition, SQ0 before the I/O queues, and among these the lowest class and the least rank in its round. -/
theorem arbiterChoosesByClassAndRound : Obligations.ArbiterChoosesByClassAndRound := by
  refine fun s => ⟨s.eligible_iff, State.choose_of_admin, fun no_admin q => ?_⟩
  rw [State.choose_eq_some_iff_of_not_admin no_admin]
  simp only [State.chosenOfClass_eq_some_iff, State.chosenOfClass_isSome]
  constructor
  · rintro ⟨n, ⟨io, ⟨eligible, level⟩, first⟩, lowest⟩
    exact ⟨io, eligible, n, level, fun i m hi he hl => lowest m ⟨i, hi, he, hl⟩, fun i hi he hl => first i hi ⟨he, hl⟩⟩
  · rintro ⟨io, eligible, n, level, lowest, first⟩
    exact ⟨n, ⟨io, ⟨eligible, level⟩, fun i hi ⟨he, hl⟩ => first i hi he hl⟩, fun m ⟨i, hi, he, hl⟩ => lowest i m hi he hl⟩

end Sys2Proof.Machine
end

section
/-! Every change a step makes to a channel keeps its items in their ranges (R40, R41, R48, R50, R52, R58, R60, R67, R72, R84, R114, R146), and the statement on the ranges settled with them. -/

namespace Sys2Proof.Machine

/-! ### The items a change computes -/

/-- The smoothed reference lies between the reference and the span (R56). -/
theorem smoothed_inRange {reference span : Nat} (k : Nat) (hr : 1 ≤ reference ∧ reference ≤ 65535)
    (hs : 1 ≤ span ∧ span ≤ 65535) : 1 ≤ smoothed reference span k ∧ smoothed reference span k ≤ 65535 := by
  rcases Nat.le_total reference span with h | h
  · rw [smoothed_of_le k h]
    have := Nat.div_le_self (span - reference) (2 ^ k)
    generalize (span - reference) / 2 ^ k = quotient at this ⊢
    omega
  · rw [smoothed_of_ge k h]
    have := Nat.div_le_self (reference - span) (2 ^ k)
    generalize (reference - span) / 2 ^ k = quotient at this ⊢
    omega

theorem Settings.runLength_pos (x : Settings) : 0 < x.runLength := Nat.two_pow_pos _

theorem Settings.clocksPerTick_pos (x : Settings) : 0 < x.clocksPerTick := Nat.two_pow_pos _

/-- The loop counter stays within a count, and is 0 without an owner (R41). -/
theorem branchRule_inRange {owner : Option StepIx} {counter : Nat} {i : StepIx} {b : Branch} (next : StepIx)
    (hcounter : counter ≤ 255) (hcount : b.count ≤ 255) :
    (branchRule owner counter i b next).2.1 ≤ 255 ∧
      ((branchRule owner counter i b next).1 = none → (branchRule owner counter i b next).2.1 = 0) := by
  obtain ⟨n, hn⟩ : ∃ n, n = if owner = some i then counter else b.count := ⟨_, rfl⟩
  rcases Nat.eq_zero_or_pos n with zero | pos
  · rw [branchRule_of_zero next hn zero]
    exact ⟨Nat.zero_le _, fun _ => rfl⟩
  · rw [branchRule_of_pos next hn pos]
    refine ⟨?_, fun e => by cases e⟩
    have : n ≤ 255 := by
      rw [hn]
      split <;> assumption
    dsimp only
    omega

/-- A bank that a standby bank gives up for holds no load. -/
theorem Standby.giveUp_ne_loading (y : Standby) (l : Load) : y.giveUp ≠ .loading l := by
  cases y with
  | loading m => cases h : m.prior <;> simp [Standby.giveUp, Prior.toStandby, h]
  | empty | ready | swapPending k => simp [Standby.giveUp]

theorem Load.read_write (l : Load) (buffer : List StepRecord) (b : Bank) (i : StepIx) :
    Table.read (l.write buffer b) i =
      if l.first ≤ i.val ∧ i.val < l.first + l.count then buffer[i.val - l.first]?
      else if l.clearRest then none else b.read i := by
  simp [Load.write, Table.read]

/-- A written bank holds records of the buffer and of the bank before it (R13). -/
theorem Load.write_forall {P : StepRecord → Prop} {l : Load} {buffer : List StepRecord} {b : Bank}
    (hbuffer : ∀ r ∈ buffer, P r) (hb : ∀ j r, b.read j = some r → P r) (j : StepIx) (r : StepRecord)
    (h : Table.read (l.write buffer b) j = some r) : P r := by
  rw [Load.read_write] at h
  split at h
  · exact hbuffer r (List.mem_of_getElem? h)
  · split at h
    · cases h
    · exact hb j r h

/-- The records of two banks one of which has been written. -/
theorem banks_write_forall {P : StepRecord → Prop} {banks : Table 2 Bank} {k : Fin 2} {b : Bank}
    (hbanks : ∀ i j r, Table.read (banks.read i) j = some r → P r) (hb : ∀ j r, b.read j = some r → P r)
    (i : Fin 2) (j : StepIx) (r : StepRecord) (h : Table.read ((banks.write k b).read i) j = some r) : P r := by
  rw [Table.read_write] at h
  split at h
  · exact hb j r h
  · exact hbanks i j r h

namespace Channel.RangesHold

variable {ch : Channel} (h : ch.RangesHold)
include h

/-! ### Runs that end -/

theorem leave {st : ChannelState} (off : st.isOn = false) (forced : (ch.leave st).ForcedHolds) :
    (ch.leave st).RangesHold :=
  { h with
    forced := forced
    override := by rintro d (e | e) <;> cases e
    divider := by rintro n e; cases e
    on := fun on => absurd (off.symm.trans on) Bool.false_ne_true
    off := fun _ => ⟨rfl, rfl, rfl⟩ }

theorem clearLoop : ch.clearLoop.RangesHold := { h with loop := ⟨Nat.zero_le _, fun _ => rfl⟩ }

theorem stopped_idle : (ch.leave .idle).clearForced.RangesHold :=
  { h with
    forced := rfl
    override := by rintro d (e | e) <;> cases e
    divider := by rintro n e; cases e
    on := fun on => absurd on Bool.false_ne_true
    off := fun _ => ⟨rfl, rfl, rfl⟩ }

/-- The two banks exchange roles, and the standby bank holds no load. -/
theorem exchange {y : Standby} (hy : ∀ l, y ≠ .loading l) : Channel.RangesHold { ch with store := ch.store.exchange y } :=
  { h with buffer := fun l e => absurd e (hy l) }

theorem withStandby {y : Standby} (hy : ∀ l, y ≠ .loading l) : (ch.withStandby y).RangesHold :=
  { h with buffer := fun l e => absurd e (hy l) }

theorem endedRun : ch.endedRun.RangesHold := by
  unfold Channel.endedRun
  split
  · exact h.stopped_idle.clearLoop.exchange (fun l e => by cases e)
  all_goals exact h.stopped_idle

theorem faulted {n : Nat} {k : FaultCause} (on : ch.isOn = true)
    (hn : ch.est.forcedCount < ch.settings.forcedLimit →
      n ≤ ch.settings.forcedLimit ∧ (n = ch.settings.forcedLimit → k = .lostSense)) :
    (Channel.faulted { ch with est := { ch.est with forcedCount := n } } k).RangesHold := by
  have below : ch.est.forcedCount < ch.settings.forcedLimit := by
    have forced := h.forced
    unfold Channel.ForcedHolds at forced
    unfold Channel.isOn at on
    cases e : ch.seq.state with
    | idle | fault x => rw [e] at on; cases on
    | running => rw [e] at forced; exact forced
    | stopping g => rw [e] at forced; exact forced.1
  have left : (Channel.leave { ch with est := { ch.est with forcedCount := n } } (.fault k)).RangesHold :=
    { h with
      forced := hn below
      override := by rintro d (e | e) <;> cases e
      divider := by rintro n e; cases e
      on := fun on => absurd on Bool.false_ne_true
      off := fun _ => ⟨rfl, rfl, rfl⟩ }
  unfold Channel.faulted
  split
  · exact left.withStandby (fun l e => by cases e)
  all_goals exact left

/-! ### Steps -/

theorem enterRecord (on : ch.isOn = true) {r : StepRecord} (hr : r.InRange) (i : StepIx) :
    (ch.enterRecord i r).RangesHold :=
  { h with
    stepTimer := Nat.zero_le _
    span := ⟨h.span.1, fun e => h.span.2 (Bool.and_eq_true_iff.1 e).1⟩
    override := by
      intro d e
      have staged : r.duty = some d := by
        unfold Channel.enterRecord overrideOf at e
        cases hd : r.duty with
        | none => simp [hd] at e
        | some x => simpa [hd] using e
      exact hr.duty d staged
    off := fun off => absurd (on.symm.trans off) Bool.noConfusion }

theorem enter (on : ch.isOn = true) (i : StepIx) : (ch.enter i).RangesHold := by
  unfold Channel.enter
  split
  · rename_i r hr
    exact h.enterRecord on (h.records _ _ _ hr) i
  · exact { h with }

theorem follow (on : ch.isOn = true) {r : StepRecord} (hr : r.InRange) : (ch.follow r).RangesHold := by
  rw [Channel.follow_eq_enter]
  suffices looped : Channel.RangesHold
      { ch with seq := { ch.seq with loopOwner := (ch.choose r).1, loopCounter := (ch.choose r).2.1 } } from looped.enter on _
  refine { h with loop := ?_ }
  cases hb : r.branch with
  | none => rw [ch.choose_of_no_branch hb]; exact h.loop
  | some b =>
    rw [ch.choose_of_branch hb]
    exact branchRule_inRange _ h.loop.1 (hr.branch b hb).2

theorem swapAtMark (on : ch.isOn = true) : ch.swapAtMark.RangesHold :=
  (h.clearLoop.exchange (y := .ready) (fun l e => by cases e)).enter on 0

theorem countMark_seeded (r : StepRecord) : ((ch.seeded r).countMark r).RangesHold := by
  rw [Channel.countMark_seeded]
  refine { h with reference := ?_, cycle := ?_ }
  · have := h.reference
    unfold Channel.referenceLeft
    dsimp only
    split <;> omega
  · have := h.cycle
    unfold Channel.cycleLeft
    dsimp only
    split <;> omega

theorem left (on : ch.isOn = true) {r : StepRecord} (hr : ch.current = some r) :
    (((ch.seeded r).countMark r).left r).RangesHold := by
  have counted := h.countMark_seeded r
  have still_on : ((ch.seeded r).countMark r).isOn = true := by rw [Channel.countMark_seeded]; exact on
  have in_range : r.InRange := h.records _ _ _ hr
  unfold Channel.left
  split
  · exact counted.endedRun
  · exact counted.swapAtMark still_on
  all_goals exact counted.follow still_on in_range

/-! ### Edges, ticks and samples -/

theorem edge (on : ch.isOn = true) : Channel.RangesHold { ch with est := ch.est.afterEdge } :=
  { h with
    span := ⟨Nat.zero_le _, fun _ => Nat.zero_le _⟩
    forced := by
      have forced := h.forced
      have limit := h.settings.forcedLimit.1
      unfold Channel.ForcedHolds at forced ⊢
      unfold Channel.isOn at on
      dsimp only
      cases e : ch.seq.state with
      | idle | fault x => rw [e] at on; cases on
      | running => exact limit
      | stopping g => rw [e] at forced; exact ⟨limit, forced.2⟩ }

theorem edgeRecorded (on : ch.isOn = true) : ch.edgeRecorded.RangesHold := by
  refine { h.edge on with reference := ?_ }
  show 1 ≤ referenceAfter ch.est.reference ch.settings.shift ch.est.validSpan ∧
    referenceAfter ch.est.reference ch.settings.shift ch.est.validSpan ≤ 65535
  by_cases valid : ch.est.spanValid = true ∧ 1 ≤ ch.est.spanCounter ∧ ch.est.spanCounter ≤ 65534
  · rw [Estimator.validSpan_of_valid valid]
    exact smoothed_inRange _ h.reference (by omega)
  · rw [Estimator.validSpan_of_not_valid valid]
    exact h.reference

theorem sampled (sample : Table 3 Level) : (ch.sampled sample).RangesHold := by
  refine { h with runs := fun l => ?_ }
  have after := ch.sampled_after sample
  have short : ch.sense.runs.read l < 2 ^ ch.settings.filter := h.runs l
  show (ch.sampled sample).sense.runs.read l < 2 ^ ch.settings.filter
  by_cases equal : sample.read l = ch.sense.accepted.read l
  · rw [(after.equal l equal).2]
    exact Nat.two_pow_pos _
  · by_cases edge : ch.sense.runs.read l + 1 = 2 ^ ch.settings.filter
    · rw [(after.edge l equal edge).2]
      exact Nat.two_pow_pos _
    · rw [(after.differs l equal edge).2]
      omega

theorem countTick (early : ch.deadlineDue = false) : ch.countTick.RangesHold := by
  have forced := h.forced
  have span := h.span
  refine { h with stepTimer := ?_, span := ?_, forced := ?_, on := ?_, off := ?_ }
  · show min 262143 _ ≤ _
    omega
  · refine ⟨?_, fun e => ?_⟩
    · show min 65535 _ ≤ _
      omega
    · have := (Bool.and_eq_true_iff.1 e).2
      show min 65535 _ ≤ _
      rw [decide_eq_true_eq] at this
      omega
  · unfold Channel.ForcedHolds at forced ⊢
    unfold Channel.countTick
    unfold Channel.deadlineDue at early
    dsimp only
    cases e : ch.seq.state with
    | idle | running | fault x => rw [e] at forced; exact forced
    | stopping g =>
      rw [e] at forced early
      obtain ⟨below, count, deadline⟩ := forced
      simp only [Bool.and_eq_false_iff, bne_eq_false_iff_eq, decide_eq_false_iff_not] at early
      simp only [ChannelState.tick, Graceful.tick]
      split
      · exact ⟨below, count, deadline⟩
      · refine ⟨below, ?_, deadline⟩
        dsimp only
        omega
  all_goals
    have same : ch.countTick.isOn = ch.isOn := by
      simp only [Channel.isOn, Channel.countTick]
      cases ch.seq.state <;> rfl
    rw [same]
  · exact h.on
  · exact h.off

theorem started {n : Nat} (hn : 1 ≤ n ∧ n ≤ 65535) : (ch.started n).RangesHold := by
  suffices set_up : Channel.RangesHold { ch with
      est := { ch.est with reference := n, forcedCount := 0, spanValid := false, spanCounter := 0, divider := some 0 },
      seq := { ch.seq with state := .running, cycle := 0, loopOwner := none, loopCounter := 0 } } from set_up.enter rfl 0
  refine { h with reference := hn, span := ?_, forced := ?_, cycle := ?_, loop := ?_, divider := ?_, on := ?_, off := ?_ }
  · exact ⟨Nat.zero_le _, fun e => by cases e⟩
  · exact h.settings.forcedLimit.1
  · exact Nat.zero_le _
  · exact ⟨Nat.zero_le _, fun _ => rfl⟩
  · intro m e
    cases e
    exact ch.settings.clocksPerTick_pos
  · exact fun _ => rfl
  · exact fun e => by cases e

/-! ### Settings, periods and dividers -/

theorem periodStart {x : Settings} (hx : x.InRange) (duty : ch.pwm.duty ≤ 4096 ∧ (∀ d, ch.pwm.shadow = some d → d ≤ 4096)) :
    (ch.pwm.periodStart x.period).counter < x.period ∧
      ((ch.pwm.periodStart x.period).duty ≤ 4096 ∧ ∀ d, (ch.pwm.periodStart x.period).shadow = some d → d ≤ 4096) ∧
      (∀ d, ((ch.pwm.periodStart x.period).override = .staged d ∨ (ch.pwm.periodStart x.period).override = .inForce d) →
        d ≤ 4096) ∧
      (ch.pwm.periodStart x.period).periodDuty ≤ x.period := by
  have := hx.period
  refine ⟨?_, ⟨?_, fun d e => by cases e⟩, fun d e => ?_, Nat.min_le_left _ _⟩
  · show 0 < x.period
    omega
  · show ch.pwm.shadow.getD ch.pwm.duty ≤ 4096
    cases e : ch.pwm.shadow with
    | none => exact duty.1
    | some d => exact duty.2 d e
  · refine h.override d ?_
    unfold Pwm.periodStart DutyOverride.begin at e
    cases o : ch.pwm.override with
    | none => simp [o] at e
    | staged x => simp [o] at e; simp [e]
    | inForce x => simp [o] at e; simp [e]

theorem periodStarted : ch.periodStarted.RangesHold := by
  obtain ⟨counter, duty, override, periodDuty⟩ := h.periodStart h.settings h.duty
  exact { h with
    counter := counter, duty := duty, override := override, periodDuty := periodDuty
    off := fun off => by
      obtain ⟨legs, none_stands, divider⟩ := h.off off
      exact ⟨legs, by simp [Channel.periodStarted, Pwm.periodStart, none_stands, DutyOverride.begin], divider⟩ }

theorem withSettings {x : Settings} (idle : ch.seq.state = .idle) (hx : x.InRange) : (ch.withSettings x).RangesHold := by
  obtain ⟨counter, duty, override, periodDuty⟩ := h.periodStart hx h.duty
  have is_off : ch.isOn = false := by simp [Channel.isOn, idle, ChannelState.isOn]
  obtain ⟨legs, none_stands, divider⟩ := h.off is_off
  have forced := h.forced
  refine { h with
    settings := hx, counter := counter, duty := duty, override := override, periodDuty := periodDuty
    forced := ?_, runs := ?_, divider := ?_, off := ?_ }
  · unfold Channel.ForcedHolds at forced ⊢
    simpa only [Channel.withSettings, idle] using forced
  · intro l
    show Table.read (Table.fill 3 0) l < _
    rw [Table.read_fill]
    exact x.runLength_pos
  · intro n e
    exact absurd (divider.symm.trans e) (by simp)
  · exact fun _ => ⟨legs, by simp [Channel.withSettings, Pwm.periodStart, none_stands, DutyOverride.begin], divider⟩

theorem pwmClock : ch.pwmClock.RangesHold := by
  unfold Channel.pwmClock
  split
  · rename_i below
    exact { h with counter := below }
  · exact h.periodStarted

theorem dividerRestarted : ch.dividerRestarted.RangesHold := by
  refine { h with divider := ?_, on := ?_, off := ?_ }
  · intro n e
    have zero : n = 0 := by
      simp only [Channel.dividerRestarted, Option.map_eq_some_iff] at e
      obtain ⟨m, _, e⟩ := e
      exact e.symm
    rw [zero]
    exact ch.settings.clocksPerTick_pos
  · intro on
    have := h.on on
    simpa [Channel.dividerRestarted] using this
  · intro off
    obtain ⟨legs, none_stands, divider⟩ := h.off off
    exact ⟨legs, none_stands, by simp [Channel.dividerRestarted, divider]⟩

theorem withDivider {n m : Nat} (running : ch.est.divider = some m) (hn : n < ch.settings.clocksPerTick) :
    (ch.withDivider n).RangesHold :=
  { h with
    divider := fun i e => by cases e; exact hn
    on := fun _ => rfl
    off := fun off => by
      obtain ⟨_, _, stopped⟩ := h.off off
      rw [running] at stopped
      cases stopped }

/-! ### Stops -/

theorem stopAtMark {d : Nat} {k : SlotId} (running : ch.seq.state = .running) (hd : d ≤ 65535) :
    (ch.stopAtMark d k).RangesHold := by
  have forced := h.forced
  unfold Channel.ForcedHolds at forced
  rw [running] at forced
  have on : ch.isOn = true := by simp [Channel.isOn, running, ChannelState.isOn]
  exact { h with forced := ⟨forced, Nat.zero_le _, hd⟩, on := fun _ => h.on on, off := fun e => by cases e }

theorem unstopped {g : Graceful} (stopping : ch.seq.state = .stopping g) :
    Channel.RangesHold { ch with seq := { ch.seq with state := .running } } := by
  have forced := h.forced
  unfold Channel.ForcedHolds at forced
  rw [stopping] at forced
  have on : ch.isOn = true := by simp [Channel.isOn, stopping, ChannelState.isOn]
  exact { h with forced := forced.1, on := fun _ => h.on on, off := fun e => by cases e }

theorem cleared {k : FaultCause} (fault : ch.seq.state = .fault k) : ch.cleared.RangesHold := by
  have off : ch.isOn = false := by simp [Channel.isOn, fault, ChannelState.isOn]
  exact { h with
    forced := rfl
    loop := ⟨Nat.zero_le _, fun _ => rfl⟩
    on := fun on => absurd on Bool.false_ne_true
    off := fun _ => h.off off }

theorem bumped {n : Nat} (on : ch.isOn = true) (hn : ch.est.forcedCount < ch.settings.forcedLimit → n < ch.settings.forcedLimit) :
    Channel.RangesHold { ch with est := { ch.est with forcedCount := n, spanValid := false } } := by
  have forced := h.forced
  refine { h with span := ⟨h.span.1, fun e => by cases e⟩, forced := ?_ }
  unfold Channel.ForcedHolds at forced ⊢
  unfold Channel.isOn at on
  dsimp only
  cases e : ch.seq.state with
  | idle | fault x => rw [e] at on; cases on
  | running => rw [e] at forced; exact hn forced
  | stopping g => rw [e] at forced; exact ⟨hn forced.1, forced.2⟩

/-! ### Loads -/

theorem loadMore {l : Load} {r : StepRecord} (loading : ch.store.standby = .loading l) (hr : r.InRange) :
    (ch.withStandby (.loading { l with buffer := l.buffer ++ [r] })).RangesHold :=
  { h with
    buffer := by
      intro m e x hx
      cases e
      rcases List.mem_append.1 hx with old | new
      · exact h.buffer l loading x old
      · rw [List.mem_singleton.1 new]
        exact hr }

theorem loadDone {l : Load} {r : StepRecord} (loading : ch.store.standby = .loading l) (hr : r.InRange) :
    Channel.RangesHold { ch with
      store := { ch.store with
        banks := ch.store.banks.write (otherBank ch.store.active) (l.write (l.buffer ++ [r]) ch.store.standbyBank),
        standby := .ready } } := by
  have buffer : ∀ x ∈ l.buffer ++ [r], x.InRange := (h.loadMore loading hr).buffer _ rfl
  refine { h with records := ?_, buffer := fun m e => by cases e }
  exact banks_write_forall h.records (Load.write_forall buffer (h.records _))

theorem atHalt : ch.atHalt.RangesHold :=
  withStandby (ch := ((ch.leave .idle).clearForced.clearLoop.withHeld none).withLost 0)
    { h.stopped_idle.clearLoop with lost := Nat.zero_le _ } (Standby.giveUp_ne_loading _)

end Channel.RangesHold

theorem Settings.reset_inRange : Settings.reset.InRange := by
  constructor <;> decide

theorem Channel.rangesHold_reset (pins : Table 3 Level) (tripLine : Level) : (Channel.reset pins tripLine).RangesHold where
  settings := Settings.reset_inRange
  records := by
    intro i j r e
    simp [Channel.reset, StepStore.reset] at e
  buffer := fun l e => by cases e
  reference := ⟨le_rfl, by simp [Channel.reset, Estimator.reset]⟩
  stepTimer := Nat.zero_le _
  span := ⟨Nat.zero_le _, fun e => by cases e⟩
  forced := rfl
  cycle := Nat.zero_le _
  lost := Nat.zero_le _
  loop := ⟨Nat.zero_le _, fun _ => rfl⟩
  counter := Nat.succ_pos _
  duty := ⟨Nat.zero_le _, fun d e => by cases e⟩
  override := by rintro d (e | e) <;> cases e
  periodDuty := Nat.zero_le _
  runs := fun l => by
    show Table.read (Table.fill 3 0) l < _
    rw [Table.read_fill]
    exact Settings.reset.runLength_pos
  divider := fun n e => by cases e
  on := fun e => by cases e
  off := fun _ => ⟨rfl, rfl, rfl⟩

/-! ### The statement -/

theorem channelClosed_rangesHold : ChannelClosed Channel.RangesHold where
  lost _ _ h hn := { h with lost := hn }
  held _ _ h := { h with }
  endedRun _ h := h.endedRun
  faulted _ _ _ h on hn := h.faulted on hn
  left _ _ h on hr := h.left on hr
  bumped _ _ h on hn := h.bumped on hn
  edge _ h on := h.edge on
  recorded _ h on := h.edgeRecorded on
  sampled _ sample h := h.sampled sample
  tick _ h _ early := h.countTick early
  blank _ h := { h with }
  started _ _ h _ _ low high := h.started ⟨low, high⟩
  stopped _ _ _ h running hd := h.stopAtMark running hd
  unstopped _ _ h stopping := h.unstopped stopping
  cleared _ _ h fault := h.cleared fault
  loading _ _ h _ empty _ _ := { h with buffer := fun m e => by cases e; rw [empty]; simp }
  loadMore _ _ _ h loading hr _ := h.loadMore loading hr
  loadDone _ _ _ h loading hr _ := h.loadDone loading hr
  giveUp _ h := h.withStandby (Standby.giveUp_ne_loading _)
  commitNow _ h _ _ _ := by
    refine h.clearLoop.exchange (fun l => ?_)
    split <;> simp
  commitLater _ _ h _ _ _ := h.withStandby (fun l e => by cases e)
  shadow _ _ h hd := { h with duty := ⟨h.duty.1, fun d e => by cases e; exact hd⟩ }
  period _ h := h.periodStarted
  trip _ _ h := { h with }
  settings _ _ h idle hx := h.withSettings idle hx
  divRestart _ h := h.dividerRestarted
  saturate _ h := { h with span := ⟨h.span.1, fun e => by cases e⟩ }
  pwmClock _ h := h.pwmClock
  divider _ _ _ h running hn := h.withDivider running hn
  atHalt _ h := h.atHalt
  reset := Channel.rangesHold_reset

/-- Settles O8: the ranges of a channel are kept by every change a step makes to it. -/
theorem stepKeepsRanges : Obligations.StepKeepsRanges :=
  fun _ _ h e => AllChannels.keepsStep channelClosed_rangesHold h e

end Sys2Proof.Machine
end

section
/-! The reachability check as the least set of indices that holds 0 and is closed under the entries (R16), and the statement on it settled with that. -/

namespace Sys2Proof.Machine

/-! ### One round of the check -/

theorem getLsbD_one_shiftLeft (i j : StepIx) : (1#16 <<< i.val).getLsbD j.val = decide (j = i) := by
  revert i j
  decide

theorem successors_getLsbD (r : StepRecord) (j : StepIx) :
    (successors r).getLsbD j.val = true ↔ j = r.next ∨ ∃ x, r.branch = some x ∧ j = x.target := by
  unfold successors
  rw [BitVec.getLsbD_or, getLsbD_one_shiftLeft]
  cases r.branch with
  | none => simp
  | some x => rw [getLsbD_one_shiftLeft]; simp

/-- What a round adds is what the present entries of the set reach. -/
theorem Bank.spread_getLsbD (b : Bank) (m : BitVec 16) (j : StepIx) :
    (b.spread m).getLsbD j.val = true ↔
      m.getLsbD j.val = true ∨
        ∃ i r, b.read i = some r ∧ m.getLsbD i.val = true ∧ (j = r.next ∨ ∃ x, r.branch = some x ∧ j = x.target) := by
  have along : ∀ (l : List StepIx) (acc : BitVec 16),
      (l.foldl (fun acc i =>
        match b.read i with
        | some r => if m.getLsbD i.val then acc ||| successors r else acc
        | none => acc) acc).getLsbD j.val = true ↔
      acc.getLsbD j.val = true ∨
        ∃ i ∈ l, ∃ r, b.read i = some r ∧ m.getLsbD i.val = true ∧ (j = r.next ∨ ∃ x, r.branch = some x ∧ j = x.target) := by
    intro l
    induction l with
    | nil => simp
    | cons i rest ih =>
      intro acc
      rw [List.foldl_cons, ih]
      simp only [List.mem_cons, exists_eq_or_imp, ← or_assoc]
      refine or_congr_left ?_
      cases b.read i with
      | none => simp
      | some r =>
        cases m.getLsbD i.val with
        | false => simp
        | true => simp only [if_true, BitVec.getLsbD_or, Bool.or_eq_true, successors_getLsbD]; simp
  have all := along (List.finRange 16) m
  simp only [List.mem_finRange, true_and] at all
  exact all

theorem Bank.spreadN_eq_iterate (b : Bank) (n : Nat) (m : BitVec 16) : b.spreadN n m = b.spread^[n] m := by
  induction n generalizing m with
  | zero => rfl
  | succ n ih => rw [Function.iterate_succ_apply, ← ih]; rfl

/-! ### Sixteen rounds reach all there is to reach -/

/-- The indices a set of the check holds. -/
def bitIndices (m : BitVec 16) : Finset StepIx := {i | m.getLsbD i.val = true}

theorem mem_bitIndices (m : BitVec 16) (i : StepIx) : i ∈ bitIndices m ↔ m.getLsbD i.val = true := by
  simp [bitIndices]

theorem bitIndices_injective : Function.Injective bitIndices := by
  intro a b h
  refine BitVec.eq_of_getLsbD_eq fun i hi => ?_
  have same := Finset.ext_iff.1 h ⟨i, hi⟩
  rw [mem_bitIndices, mem_bitIndices] at same
  exact Bool.eq_iff_iff.2 same

theorem Bank.bitIndices_subset_spread (b : Bank) (m : BitVec 16) : bitIndices m ⊆ bitIndices (b.spread m) := by
  intro i hi
  rw [mem_bitIndices] at hi ⊢
  exact (b.spread_getLsbD m i).2 (.inl hi)

/-- Each round adds an index, until one adds none. -/
theorem Bank.iterate_spread_fixed_or_grown (b : Bank) (m : BitVec 16) (n : Nat) :
    b.spread (b.spread^[n] m) = b.spread^[n] m ∨ n + (bitIndices m).card ≤ (bitIndices (b.spread^[n] m)).card := by
  induction n with
  | zero => exact .inr (by simp)
  | succ n ih =>
    rw [Function.iterate_succ_apply']
    by_cases fixed : b.spread (b.spread^[n] m) = b.spread^[n] m
    · exact .inl (by rw [fixed, fixed])
    · have grown := ih.resolve_left fixed
      have strict : bitIndices (b.spread^[n] m) ⊂ bitIndices (b.spread (b.spread^[n] m)) :=
        (b.bitIndices_subset_spread _).ssubset_of_ne fun e => fixed (bitIndices_injective e.symm)
      have := Finset.card_lt_card strict
      exact .inr (by omega)

theorem Bank.spread_reachable (b : Bank) : b.spread b.reachable = b.reachable := by
  unfold Bank.reachable
  rw [Bank.spreadN_eq_iterate]
  refine (b.iterate_spread_fixed_or_grown 1#16 16).resolve_right fun grown => ?_
  have start : 1 ≤ (bitIndices 1#16).card := by decide
  have most : (bitIndices (b.spread^[16] 1#16)).card ≤ 16 := by simpa using Finset.card_le_univ (bitIndices (b.spread^[16] 1#16))
  omega

/-! ### The check is the rule (R16) -/

theorem Bank.reachable_of_spreadN (b : Bank) (n : Nat) (i : StepIx) (h : (b.spread^[n] 1#16).getLsbD i.val = true) :
    StepReachable b i := by
  induction n generalizing i with
  | zero =>
    have only_zero : ∀ j : StepIx, (1#16).getLsbD j.val = true → j = 0 := by decide
    rw [only_zero i h]
    exact .entry
  | succ n ih =>
    rw [Function.iterate_succ_apply', Bank.spread_getLsbD] at h
    rcases h with before | ⟨j, r, hr, hj, rfl | ⟨x, hx, rfl⟩⟩
    · exact ih i before
    · exact .next (ih j hj) hr
    · exact .branch (ih j hj) hr hx

theorem Bank.reachable_getLsbD (b : Bank) (i : StepIx) : b.reachable.getLsbD i.val = true ↔ StepReachable b i := by
  constructor
  · unfold Bank.reachable
    rw [Bank.spreadN_eq_iterate]
    exact b.reachable_of_spreadN 16 i
  · have closed (j : StepIx) := b.spread_getLsbD b.reachable j
    rw [b.spread_reachable] at closed
    have grows (n : Nat) : (b.spread^[n] 1#16).getLsbD 0 = true := by
      induction n with
      | zero => exact (by decide : (1#16).getLsbD 0 = true)
      | succ n ih => rw [Function.iterate_succ_apply']; exact (b.spread_getLsbD _ 0).2 (.inl ih)
    intro h
    induction h with
    | entry =>
      unfold Bank.reachable
      rw [Bank.spreadN_eq_iterate]
      exact grows 16
    | next _ hr ih => exact (closed _).2 (.inr ⟨_, _, hr, ih, .inl rfl⟩)
    | branch _ hr hx ih => exact (closed _).2 (.inr ⟨_, _, hr, ih, .inr ⟨_, hx, rfl⟩⟩)

/-- A bank is complete when every reachable index holds a record. -/
theorem Bank.lowestMissing_eq_none (b : Bank) :
    b.lowestMissing = none ↔ ∀ i, StepReachable b i → ∃ r, b.read i = some r := by
  unfold Bank.lowestMissing
  simp only [List.find?_eq_none, List.mem_finRange, forall_const, Bool.and_eq_true, Bank.reachable_getLsbD,
    Option.isNone_iff_eq_none, not_and, ← Option.ne_none_iff_exists', ne_eq]

/-- Settles O23: the check holds exactly the indices the rule builds, and finds the least of them that is absent. -/
theorem reachabilityIsChecked : Obligations.ReachabilityIsChecked := by
  refine fun b => ⟨b.lowestMissing_eq_none, fun i => ?_⟩
  unfold Bank.lowestMissing
  rw [find?_eq_some_iff_of_pairwise (rank := id) (List.pairwise_lt_finRange 16)]
  simp only [List.mem_finRange, true_and, forall_const, Bool.and_eq_true, Bank.reachable_getLsbD,
    Option.isNone_iff_eq_none, id, and_assoc]
  refine and_congr_right fun _ => and_congr_right fun _ => forall_congr' fun j => ?_
  rw [← Option.ne_none_iff_exists']
  constructor
  · exact fun least below reached absent => absurd (least ⟨reached, absent⟩) (not_le.2 below)
  · exact fun present ⟨reached, absent⟩ => not_lt.1 fun below => present below reached absent

end Sys2Proof.Machine
end

section
/-! Every change a step makes to a channel keeps its step tables checked and complete (R6, R7, R8, R21), and the statement on the tables settled with them. -/

namespace Sys2Proof.Machine

/-! ### The two banks of a step store (R7, R17, R18) -/

@[simp] theorem otherBank_otherBank (i : Fin 2) : otherBank (otherBank i) = i := by
  revert i
  decide

theorem ne_otherBank (i : Fin 2) : i ≠ otherBank i := by
  revert i
  decide

@[simp] theorem StepStore.exchange_activeBank (x : StepStore) (y : Standby) : (x.exchange y).activeBank = x.standbyBank := rfl

@[simp] theorem StepStore.exchange_standbyBank (x : StepStore) (y : Standby) : (x.exchange y).standbyBank = x.activeBank := by
  simp [StepStore.standbyBank, StepStore.activeBank, StepStore.exchange]

theorem Bank.isEmpty_eq_false (b : Bank) : b.isEmpty = false ↔ ∃ i r, b.read i = some r := by
  simp [Bank.isEmpty, ← Option.isSome_iff_exists, Option.isSome_iff_ne_none]

/-- A complete bank holds step 0. -/
theorem Bank.isEmpty_of_complete {b : Bank} (complete : b.lowestMissing = none) : b.isEmpty = false := by
  obtain ⟨r, hr⟩ := b.lowestMissing_eq_none.1 complete 0 .entry
  exact b.isEmpty_eq_false.2 ⟨0, r, hr⟩

/-- A load of one record or more leaves an entry present (R13). -/
theorem Load.write_isEmpty {l : Load} {buffer : List StepRecord} (b : Bank) (length : buffer.length = l.count)
    (pos : 0 < buffer.length) (fits : l.first + l.count ≤ 16) : Bank.isEmpty (l.write buffer b) = false := by
  refine (Bank.isEmpty_eq_false _).2 ⟨⟨l.first, by omega⟩, buffer[0], ?_⟩
  rw [Load.read_write]
  simp only [Nat.sub_self]
  rw [if_pos (by omega)]
  exact List.getElem?_eq_getElem pos

theorem Standby.giveUp_ne_swapPending (y : Standby) (k : SlotId) : y.giveUp ≠ .swapPending k := by
  cases y with
  | loading l => cases p : l.prior <;> simp [Standby.giveUp, Prior.toStandby, p]
  | empty | ready | swapPending j => simp [Standby.giveUp]

namespace StepStore.Holds

variable {x : StepStore} (h : x.Holds)
include h

/-- A load or a swap given up leaves the standby bank as its state then says (R10, R19). -/
theorem giveUp : (x.withStandby x.standby.giveUp).Holds := by
  have standby := h.standby
  refine ⟨h.records, h.active, ?_⟩
  unfold StepStore.StandbyHolds at standby ⊢
  show match x.standby.giveUp with
    | .empty => x.standbyBank.isEmpty = true
    | .ready => x.standbyBank.isEmpty = false
    | .loading l => _
    | .swapPending _ => x.standbyBank.lowestMissing = none
  cases e : x.standby with
  | empty | ready => rw [e] at standby; exact standby
  | swapPending k =>
    rw [e] at standby
    exact Bank.isEmpty_of_complete standby
  | loading l =>
    rw [e] at standby
    obtain ⟨_, _, _, prior⟩ := standby
    cases p : l.prior with
    | empty =>
      simp only [Standby.giveUp, p, Prior.toStandby]
      exact prior.2 p
    | ready =>
      simp only [Standby.giveUp, p, Prior.toStandby]
      exact Bool.eq_false_iff.2 fun empty => by simpa [p] using prior.1 empty

/-- The banks exchange roles where the standby bank is complete (R17, R18). -/
theorem exchange {y : Standby} (complete : x.standbyBank.lowestMissing = none)
    (hy : (y = .empty ∧ x.activeBank.isEmpty = true) ∨ (y = .ready ∧ x.activeBank.isEmpty = false)) : (x.exchange y).Holds := by
  refine ⟨h.records, fun _ => complete, ?_⟩
  have standby : (x.exchange y).standby = y := rfl
  unfold StepStore.StandbyHolds
  rw [standby, StepStore.exchange_standbyBank]
  rcases hy with ⟨rfl, empty⟩ | ⟨rfl, present⟩
  · exact empty
  · exact present

theorem loading {l : Load} (prior : x.standby.priorOf = some l.prior) (empty : l.buffer = []) (pos : 1 ≤ l.count)
    (fits : l.first + l.count ≤ 16) : (x.withStandby (.loading l)).Holds := by
  have standby := h.standby
  refine ⟨h.records, h.active, by simp [empty], by rw [empty]; exact pos, fits, ?_⟩
  show x.standbyBank.isEmpty = true ↔ l.prior = .empty
  unfold StepStore.StandbyHolds at standby
  cases e : x.standby with
  | empty =>
    rw [e] at standby prior
    have was_empty : Prior.empty = l.prior := Option.some.inj prior
    exact ⟨fun _ => was_empty.symm, fun _ => standby⟩
  | ready =>
    rw [e] at standby prior
    have was_ready : Prior.ready = l.prior := Option.some.inj prior
    rw [← was_ready, standby]
    simp
  | loading m => rw [e] at prior; cases prior
  | swapPending k => rw [e] at prior; cases prior

theorem loadMore {l : Load} {r : StepRecord} (loading : x.standby = .loading l) (hr : r.InRange)
    (more : l.buffer.length + 1 ≠ l.count) :
    (x.withStandby (.loading { l with buffer := l.buffer ++ [r] })).Holds := by
  have standby := h.standby
  unfold StepStore.StandbyHolds at standby
  rw [loading] at standby
  obtain ⟨records, short, fits, prior⟩ := standby
  refine ⟨h.records, h.active, ?_, ?_, fits, prior⟩
  · intro y hy
    rcases List.mem_append.1 hy with old | new
    · exact records y old
    · rw [List.mem_singleton.1 new]
      exact hr
  · rw [List.length_append, List.length_singleton]
    dsimp only
    omega

theorem loadDone {l : Load} {r : StepRecord} (loading : x.standby = .loading l) (hr : r.InRange)
    (last : l.buffer.length + 1 = l.count) :
    StepStore.Holds { x with
      banks := x.banks.write (otherBank x.active) (l.write (l.buffer ++ [r]) x.standbyBank), standby := .ready } := by
  have standby := h.standby
  unfold StepStore.StandbyHolds at standby
  rw [loading] at standby
  obtain ⟨records, _, fits, _⟩ := standby
  have buffer : ∀ y ∈ l.buffer ++ [r], y.InRange := by
    simpa [or_imp, forall_and] using ⟨records, hr⟩
  refine ⟨banks_write_forall h.records (Load.write_forall buffer (h.records _)), ?_, ?_⟩
  · unfold StepStore.activeBank
    dsimp only
    rw [Table.read_write_ne _ _ _ _ (ne_otherBank x.active)]
    exact h.active
  · show Bank.isEmpty (Table.read (Table.write _ _ _) _) = false
    rw [Table.read_write_self]
    exact Load.write_isEmpty _ (by simpa using last) (by simp) fits

end StepStore.Holds

/-! ### The changes of a channel -/

/-- A step entered at a reachable index of a complete active bank is current (R21). -/
theorem Channel.tablesHold_enter {ch : Channel} {i : StepIx} (store : ch.store.Holds)
    (reached : ch.isOn = true → ch.store.activeValid = true ∧ StepReachable ch.store.activeBank i)
    (pending : ∀ k, ch.store.standby = .swapPending k → ch.isOn = true) : (ch.enter i).TablesHold := by
  unfold Channel.enter
  split <;> exact ⟨store, reached, pending⟩

namespace Channel.TablesHold

variable {ch : Channel} (h : ch.TablesHold)
include h

theorem no_swap (off : ch.isOn = false) (k : SlotId) : ch.store.standby ≠ .swapPending k :=
  fun e => Bool.false_ne_true (off.symm.trans (h.pending k e))

/-- A running channel's active bank is complete and not empty (R7). -/
theorem active_present (on : ch.isOn = true) : ch.store.activeBank.isEmpty = false :=
  Bank.isEmpty_of_complete (h.store.active (h.current on).1)

theorem swap_complete {k : SlotId} (swap : ch.store.standby = .swapPending k) : ch.store.standbyBank.lowestMissing = none := by
  have standby := h.store.standby
  unfold StepStore.StandbyHolds at standby
  rw [swap] at standby
  exact standby

/-- A swap taken leaves the banks exchanged and the former active bank READY (R18). -/
theorem exchange_of_swap {k : SlotId} (swap : ch.store.standby = .swapPending k) : (ch.store.exchange .ready).Holds :=
  h.store.exchange (h.swap_complete swap) (.inr ⟨rfl, h.active_present (h.pending k swap)⟩)

theorem endedRun : ch.endedRun.TablesHold := by
  unfold Channel.endedRun
  split
  · rename_i k swap
    exact ⟨h.exchange_of_swap swap, fun on => absurd on Bool.false_ne_true, fun k e => by cases e⟩
  all_goals
    rename_i e
    exact ⟨h.store, fun on => absurd on Bool.false_ne_true, fun k swap => by cases e.symm.trans swap⟩

theorem giveUp : (ch.withStandby ch.store.standby.giveUp).TablesHold :=
  ⟨h.store.giveUp, h.current, fun k e => absurd e (Standby.giveUp_ne_swapPending _ k)⟩

/-- A channel that leaves its run with no swap pending keeps its tables. -/
theorem leave {st : ChannelState} (off : st.isOn = false) (no_swap : ∀ k, ch.store.standby ≠ .swapPending k) :
    (ch.leave st).TablesHold :=
  ⟨h.store, fun on => absurd (off.symm.trans on) Bool.false_ne_true, fun k e => absurd e (no_swap k)⟩

theorem faulted (k : FaultCause) : (ch.faulted k).TablesHold := by
  unfold Channel.faulted
  split
  · rename_i j swap
    have given_up := h.giveUp
    rw [swap] at given_up
    exact given_up.leave rfl (fun k e => by cases e)
  all_goals
    rename_i e
    exact h.leave rfl (fun k swap => by cases e.symm.trans swap)

/-- The step chosen is the branch target or the next of the step left (R38). -/
theorem choose_reached {r : StepRecord} (on : ch.isOn = true) (hr : ch.current = some r) :
    StepReachable ch.store.activeBank (ch.choose r).2.2 := by
  have here := (h.current on).2
  cases hb : r.branch with
  | none =>
    rw [ch.choose_of_no_branch hb]
    exact .next here hr
  | some b =>
    rw [ch.choose_of_branch hb]
    obtain ⟨n, hn⟩ : ∃ n, n = if ch.seq.loopOwner = some ch.seq.currentStep then ch.seq.loopCounter else b.count := ⟨_, rfl⟩
    rcases Nat.eq_zero_or_pos n with zero | pos
    · rw [branchRule_of_zero _ hn zero]
      exact .next here hr
    · rw [branchRule_of_pos _ hn pos]
      exact .branch here hr hb

theorem follow {r : StepRecord} (on : ch.isOn = true) (hr : ch.current = some r) : (ch.follow r).TablesHold := by
  rw [Channel.follow_eq_enter]
  exact Channel.tablesHold_enter h.store (fun _ => ⟨(h.current on).1, h.choose_reached on hr⟩) h.pending

theorem swapAtMark {k : SlotId} (swap : ch.store.standby = .swapPending k) : ch.swapAtMark.TablesHold :=
  Channel.tablesHold_enter (h.exchange_of_swap swap) (fun _ => ⟨rfl, .entry⟩) (fun k e => by cases e)

theorem left {r : StepRecord} (on : ch.isOn = true) (hr : ch.current = some r) :
    (((ch.seeded r).countMark r).left r).TablesHold := by
  rw [Channel.countMark_seeded]
  suffices counted : ∀ now : Channel, now.TablesHold → now.isOn = true → now.current = some r → (now.left r).TablesHold from
    counted _ { h with } on hr
  intro now hnow now_on now_current
  unfold Channel.left
  split
  · exact hnow.endedRun
  · exact hnow.swapAtMark ‹_›
  all_goals exact hnow.follow now_on now_current

/-- A complete standby bank swapped at once outside a run (R17). -/
theorem commitNow (complete : ch.store.standbyBank.lowestMissing = none) (off : ch.isOn = false) :
    Channel.TablesHold { ch.clearLoop with store := ch.store.swapAtOnce } := by
  refine ⟨h.store.exchange complete ?_, fun on => absurd (off.symm.trans on) Bool.false_ne_true, fun k e => ?_⟩
  · cases empty : Bank.isEmpty ch.store.activeBank <;> simp
  · have never : (ch.store.swapAtOnce).standby ≠ .swapPending k := by
      show (if _ then Standby.empty else .ready) ≠ _
      split <;> simp
    exact absurd e never

theorem atHalt : ch.atHalt.TablesHold :=
  ⟨h.giveUp.store, fun on => absurd on Bool.false_ne_true,
    fun k e => absurd e (Standby.giveUp_ne_swapPending _ k)⟩

end Channel.TablesHold

theorem Channel.tablesHold_reset (pins : Table 3 Level) (tripLine : Level) : (Channel.reset pins tripLine).TablesHold := by
  refine ⟨⟨fun i j r e => ?_, nofun, ?_⟩, nofun, nofun⟩
  · simp [Channel.reset, StepStore.reset] at e
  · show Bank.isEmpty (Table.read (Table.fill 2 (Table.fill 16 none)) _) = true
    rw [Table.read_fill]
    decide

/-! ### The statement -/

theorem channelClosed_tablesHold : ChannelClosed Channel.TablesHold where
  lost _ _ h _ := { h with }
  held _ _ h := { h with }
  endedRun _ h := h.endedRun
  faulted ch n k h _ _ :=
    Channel.TablesHold.faulted (ch := { ch with est := { ch.est with forcedCount := n } }) { h with } k
  left _ _ h on hr := h.left on hr
  bumped _ _ h _ _ := { h with }
  edge _ h _ := { h with }
  recorded _ h _ := { h with }
  sampled _ _ h := { h with }
  tick ch h _ _ := by
    have same : ch.countTick.isOn = ch.isOn := by
      simp only [Channel.isOn, Channel.countTick]
      cases ch.seq.state <;> rfl
    exact ⟨h.store, by rw [same]; exact h.current, by rw [same]; exact h.pending⟩
  blank _ h := { h with }
  started ch _ h idle valid _ _ := by
    have off : ch.isOn = false := by simp [Channel.isOn, idle, ChannelState.isOn]
    exact Channel.tablesHold_enter h.store (fun _ => ⟨valid, .entry⟩) (fun k e => absurd e (h.no_swap off k))
  stopped ch _ _ h running _ := by
    have on : ch.isOn = true := by simp [Channel.isOn, running, ChannelState.isOn]
    exact ⟨h.store, fun _ => h.current on, fun _ _ => rfl⟩
  unstopped ch _ h stopping := by
    have on : ch.isOn = true := by simp [Channel.isOn, stopping, ChannelState.isOn]
    exact ⟨h.store, fun _ => h.current on, fun _ _ => rfl⟩
  cleared ch _ h fault := by
    have off : ch.isOn = false := by simp [Channel.isOn, fault, ChannelState.isOn]
    exact ⟨h.store, fun on => absurd on Bool.false_ne_true, fun k e => absurd e (h.no_swap off k)⟩
  loading _ _ h prior empty pos fits := ⟨h.store.loading prior empty pos fits, h.current, fun k e => by cases e⟩
  loadMore _ _ _ h loading hr more := ⟨h.store.loadMore loading hr more, h.current, fun k e => by cases e⟩
  loadDone ch _ _ h loading hr last := by
    refine ⟨h.store.loadDone loading hr last, fun on => ?_, fun k e => by cases e⟩
    obtain ⟨valid, reached⟩ := h.current on
    refine ⟨valid, ?_⟩
    unfold StepStore.activeBank
    dsimp only
    rw [Table.read_write_ne _ _ _ _ (ne_otherBank ch.store.active)]
    exact reached
  giveUp _ h := h.giveUp
  commitNow _ h _ complete off := h.commitNow complete off
  commitLater _ _ h _ complete on := ⟨⟨h.store.records, h.store.active, complete⟩, h.current, fun _ _ => on⟩
  shadow _ _ h _ := { h with }
  period _ h := { h with }
  trip _ _ h := { h with }
  settings _ _ h _ _ := { h with }
  divRestart _ h := { h with }
  saturate _ h := { h with }
  pwmClock ch h := by
    unfold Channel.pwmClock
    split <;> exact { h with }
  divider _ _ _ h _ _ := { h with }
  atHalt _ h := h.atHalt
  reset := Channel.tablesHold_reset

/-- Settles O7: the step tables of a channel are kept by every change a step makes to it. -/
theorem stepKeepsTables : Obligations.StepKeepsTables :=
  fun _ _ h e => AllChannels.keepsStep channelClosed_tablesHold h e

end Sys2Proof.Machine
end

section
/-! What a step can do to the state, said once: every command and the clock is a sequence of named moves, each made only where its condition holds, and perhaps the entry into FATAL at its end. -/

namespace Sys2Proof.Machine

/-- A command is WORKING. -/
def State.Busy (s : State) : Prop := ∃ k w, s.slot k = .working w

/-- A change of a channel lets it wait for a command, run, or leave IDLE with no held notice only where it already does, or where a command is WORKING. -/
structure Channel.Calm (busy : Prop) (ch now : Channel) : Prop where
  waits : now.store.standby.waits = true → ch.store.standby.waits = true ∨ busy
  idle : ch.seq.state = .idle → busy ∨ (now.seq.state = .idle ∧ (ch.seq.held = none → now.seq.held = none))
  on : now.isOn = true → ch.isOn = true ∨ busy

/-- The moves a step is made of, but for the entry into FATAL. -/
inductive Move : State → State → Prop
  | choice (s : State) (n : Nat) : Move s { s with choice := n }
  | pin (s : State) (b : Bool) : Move s { s with resetPin := b }
  | channel (s : State) (c : ChannelId) (now : Channel) : (s.channel c).Calm s.Busy now → Move s (s.withChannel c now)
  | append (s : State) (q : QueueId) (r : CqRecord) : s.accepts q = true → Move s (s.appendRecord q r)
  | handWrite (s : State) (q : QueueId) : Move s (s.handCqWrite q)
  | hand (s : State) (r : Requester) (a : Addr) : isCqWrite r = false →
      (s.Busy ∨ ∃ c, (s.channel c).store.standby.waits = true) → Move s (s.hand r a)
  | drop (s : State) (r : Requester) :
      s.engine.state ≠ .halting ∨ (isCqWrite r = false ∧ s.port.fails r = true) → Move s (s.dropBegun r)
  | discardOf (s : State) (r : Requester) : Move s (s.withPort (s.port.discardOf r))
  | endDiscarded (s : State) (r : Requester) : Move s (s.endDiscarded r)
  | begin (s : State) : Move s s.beginTransaction
  | finish (s : State) (k : SlotId) (status : Status) (detail : Nat) : Move s (s.finishSlot k status detail)
  | cancels (s : State) (l : List CancelRequest) : (s.cancels = [] → l = [] ∨ s.Busy) → Move s { s with cancels := l }
  | closeSq (s : State) (q : QueueId) : s.sqInUse q = false → Move s (s.withSq q { s.sq q with state := .closed })
  | closingSq (s : State) (q : QueueId) (k : SlotId) : (s.sq q).state ≠ .closed →
      Move s (s.withSq q { s.sq q with state := .closing (some k) })
  | openSq (s : State) (q b : QueueId) (x : SqContext) : s.Busy → (s.sq q).state = .closed → (s.cq b).state = .opened →
      x.boundCq = some b → x.head < x.size → x.tail < x.size →
      inOneWindow s.windows .read x.base.toNat (32 * x.size) = true → Move s (s.withSq q x)
  | post (s : State) (q : QueueId) (tail : Nat) : (s.sq q).state = .opened → tail < (s.sq q).size →
      Move s (s.withSq q { s.sq q with tail := tail })
  | takeRecord (s : State) (f : FetchRecord) (code : CommandCode) (tag : BitVec 16) (channel : Byte) :
      s.returning = some f → Move s (s.takeRecord f code tag channel)
  | failFetch (s : State) (f : FetchRecord) : s.fetch = some f →
      Move s { ((s.dropBegun (.fetch f.sq)).withSq f.sq { s.sq f.sq with state := .broken }).freeFetchSlot f.slot with
        fetch := none }
  | startFetch (s : State) (q b : QueueId) (k : SlotId) : s.fetchIdle = true → s.eligible q = true → s.slot k = .free →
      (s.sq q).boundCq = some b → Move s (s.startFetchFrom q b k)
  | openCq (s : State) (q : QueueId) (x : CqContext) : s.Busy → (s.cq q).state = .closed → x.state = .opened →
      x.head < x.size → x.tail < x.size → x.occupied = 0 → x.reserved = 0 →
      inOneWindow s.windows .write x.base.toNat (16 * x.size) = true → Move s (s.withCq q x)
  | closeCq (s : State) (q : QueueId) : s.isBound q = false → Move s (s.withCq q { s.cq q with state := .closed })
  | wrote (s : State) (q : QueueId) : (s.cq q).list ≠ [] → Move s (s.withCq q (s.cq q).afterWrite)
  | release (s : State) (q : QueueId) (head : Nat) : s.releaseAccepted q head = true →
      Move s (s.withCq q { s.cq q with head := head })
  | breakCq (s : State) (q : QueueId) : s.port.begun ≠ [] → Move s (s.breakCq q)
  | vectors (s : State) (v : VectorUnit) :
      (s.engine.state ≠ .halting ∧ s.port.begun ≠ []) ∨
        ((∀ q, s.vectors.timers.read q = none) →
          (∀ q, v.timers.read q = none) ∧ (s.vectors.pending = 0 → v.pending = 0)) → Move s (s.withVectors v)
  | windows (s : State) (ws : Table 4 Window) : s.ringsCovered ws = true → Move s { s with windows := ws }
  | engine (s : State) (e : Engine) : s.engine.state = .halted → e.state = .halted → Move s { s with engine := e }
  | enable (s : State) : s.engine.state = .halted → s.engine.adminValid = true → Move s s.openAdmin
  | halt (s : State) : s.engine.state = .running ∨ s.engine.state = .fatal → Move s s.beginHalt
  | haltEnd (s : State) : s.engine.state = .halting → Move s (s.withPort { s.port with begun := [] }).endHalt
  | reset (s : State) (kind : LastReset) : Move s (s.resetBlocks kind)

/-- Moves one after the other. -/
abbrev Moves : State → State → Prop := Relation.ReflTransGen Move

theorem Move.moves {s t : State} (h : Move s t) : Moves s t := .single h

theorem Moves.move {s t u : State} (h : Moves s t) (m : Move t u) : Moves s u := .tail h m

theorem Moves.channel {s : State} {c : ChannelId} {now : Channel} (calm : (s.channel c).Calm s.Busy now) :
    Moves s (s.withChannel c now) := (Move.channel s c now calm).moves

theorem Moves.after_channel {s t : State} {c : ChannelId} {now : Channel} (rest : Moves (s.withChannel c now) t)
    (calm : (s.channel c).Calm s.Busy now) : Moves s t := (Moves.channel calm).trans rest

/-! ### Calm changes of a channel -/

section
variable {busy : Prop} {ch now : Channel}

/-- A change that keeps the state and the held notice, and takes up no waiting, is calm. -/
theorem Channel.Calm.of_same (state : now.seq.state = ch.seq.state) (held : now.seq.held = ch.seq.held)
    (waits : now.store.standby.waits = true → ch.store.standby.waits = true) : ch.Calm busy now where
  waits h := .inl (waits h)
  idle h := .inr ⟨state.trans h, fun e => held.trans e⟩
  on h := .inl (by unfold Channel.isOn at h ⊢; rw [← state]; exact h)

/-- A channel that is not IDLE may take any state in which it does not run. -/
theorem Channel.Calm.of_not_idle (busy_idle : ch.seq.state ≠ .idle) (on : now.isOn = true → ch.isOn = true)
    (waits : now.store.standby.waits = true → ch.store.standby.waits = true) : ch.Calm busy now where
  waits h := .inl (waits h)
  idle h := absurd h busy_idle
  on h := .inl (on h)

/-- A channel that goes IDLE and keeps its held notice. -/
theorem Channel.Calm.of_idle (state : now.seq.state = .idle) (held : now.seq.held = ch.seq.held)
    (waits : now.store.standby.waits = true → ch.store.standby.waits = true) : ch.Calm busy now where
  waits h := .inl (waits h)
  idle _ := .inr ⟨state, fun e => held.trans e⟩
  on h := by unfold Channel.isOn at h; rw [state] at h; cases h

theorem Channel.Calm.of_busy (h : busy) : ch.Calm busy now := ⟨fun _ => .inr h, fun _ => .inl h, fun _ => .inr h⟩

end

theorem Channel.state_ne_idle_of_on {ch : Channel} (on : ch.isOn = true) : ch.seq.state ≠ .idle := by
  intro idle
  unfold Channel.isOn at on
  rw [idle] at on
  cases on

@[simp] theorem Channel.enter_state (ch : Channel) (i : StepIx) : (ch.enter i).seq.state = ch.seq.state := by
  unfold Channel.enter
  split <;> rfl

@[simp] theorem Channel.enter_held (ch : Channel) (i : StepIx) : (ch.enter i).seq.held = ch.seq.held := by
  unfold Channel.enter
  split <;> rfl

@[simp] theorem Channel.enter_store (ch : Channel) (i : StepIx) : (ch.enter i).store = ch.store := by
  unfold Channel.enter
  split <;> rfl

@[simp] theorem Prior.toStandby_waits (p : Prior) : p.toStandby.waits = false := by
  cases p <;> rfl

variable (s : State)

/-! ### Completions and offers -/

theorem State.finishSlot_moves (k : SlotId) (status : Status) (detail : Nat) : Moves s (s.finishSlot k status detail) :=
  (Move.finish s k status detail).moves

theorem State.closeIfDrained_moves (q : QueueId) : Moves s (s.closeIfDrained q) := by
  unfold State.closeIfDrained
  split
  · split
    · exact .refl
    · rename_i unused
      split
      · exact (Move.closeSq s q (by simpa using unused)).moves.trans (State.finishSlot_moves _ _ _ _)
      · exact .refl
  all_goals exact .refl

theorem State.complete_moves (k : SlotId) (status : Status) (detail : Nat) : Moves s (s.complete k status detail) := by
  unfold State.complete
  split
  · exact (s.finishSlot_moves k status detail).trans (State.closeIfDrained_moves _ _)
  all_goals exact .refl

theorem State.completeStop_moves (g : Option Graceful) (status : Status) : Moves s (s.completeStop g status) := by
  unfold State.completeStop
  split
  · exact s.complete_moves _ _ _
  · exact .refl

theorem State.offerQueueNotice_moves (q : QueueId) (kind : QueueKind) (why : NoticeCause) :
    Moves s (s.offerQueueNotice q kind why) := by
  unfold State.offerQueueNotice
  split
  · exact (Move.append s 0 _ ‹_›).moves
  · exact .refl

theorem State.offerReport_moves (c : ChannelId) (r : Report) : Moves s (s.offerReport c r) := by
  have lost (n : Nat) : Moves s (s.withChannel c ((s.channel c).withLost n)) :=
    .channel (.of_same rfl rfl id)
  unfold State.offerReport
  split
  · exact .refl
  · split
    · rename_i taken
      exact (lost 0).move (.append _ _ _ (Bool.and_eq_true_iff.1 taken).1)
    · split
      · exact .refl
      · exact lost _

/-- A fault's notice is offered by a channel that is not IDLE. -/
theorem State.offerChannelNotice_moves (c : ChannelId) (cause : FaultCause) (h : (s.channel c).seq.state ≠ .idle) :
    Moves s (s.offerChannelNotice c cause) := by
  have held (x : Option HeldNotice) : Moves s (s.withChannel c ((s.channel c).withHeld x)) :=
    .channel (.of_not_idle h id id)
  unfold State.offerChannelNotice
  split
  · exact .refl
  · split
    · exact (Move.append s _ _ ‹_›).moves
    · exact held _
  · exact held _

theorem State.offerHeld_moves (q : QueueId) (c : ChannelId) : Moves s (s.offerHeld q c) := by
  unfold State.offerHeld
  split
  · exact .refl
  · split
    · rename_i taken
      have accepted : (s.withChannel c ((s.channel c).withHeld none)).accepts q = true := (Bool.and_eq_true_iff.1 taken).2
      exact .after_channel (Move.append _ _ _ accepted).moves ⟨.inl, fun idle => .inr ⟨idle, fun _ => rfl⟩, .inl⟩
    · exact .refl

theorem State.forChannels_moves {f : State → ChannelId → State} (hf : ∀ (t : State) (c : ChannelId), Moves t (f t c)) :
    Moves s (s.forChannels f) := by
  have all : ∀ (l : List ChannelId) (t : State), Moves t (l.foldl f t) := by
    intro l
    induction l with
    | nil => exact fun t => .refl
    | cons c rest ih => exact fun t => (hf t c).trans (ih _)
  exact all _ s

/-! ### Runs and steps -/

theorem State.endRun_moves (c : ChannelId) : Moves s (s.endRun c) := by
  unfold State.endRun
  dsimp only
  split
  · exact .after_channel (State.complete_moves _ _ _ _) (.of_idle rfl rfl nofun)
  all_goals exact .channel (.of_idle rfl rfl id)

theorem State.faultChannel_moves (c : ChannelId) (cause : FaultCause) (on : (s.channel c).isOn = true) :
    Moves s (s.faultChannel c cause) := by
  have not_idle := Channel.state_ne_idle_of_on on
  unfold State.faultChannel
  dsimp only
  split
  · exact .after_channel (State.complete_moves _ _ _ _) (.of_not_idle not_idle (fun _ => on) nofun)
  all_goals exact .channel (.of_not_idle not_idle (fun _ => on) id)

theorem State.faultChannel_state (c : ChannelId) (cause : FaultCause) :
    ((s.faultChannel c cause).channel c).seq.state = .fault cause := by
  unfold State.faultChannel
  dsimp only
  split <;> simp [Channel.leave, Channel.withStandby]

theorem State.faultEntry_moves (c : ChannelId) (cause : FaultCause) : Moves s (s.faultEntry c cause) := by
  cases on : (s.channel c).isOn with
  | false => rw [State.faultEntry_off s c cause on]
  | true =>
    rw [State.faultEntry_of_on cause on]
    refine ((s.faultChannel_moves c cause on).trans (State.completeStop_moves _ _ _)).trans
      (State.offerChannelNotice_moves _ _ _ ?_)
    rw [State.completeStop_channel, State.faultChannel_state]
    exact nofun

theorem State.leaveStep_moves (c : ChannelId) (r : StepRecord) : Moves s (s.leaveStep c r) := by
  have followed : Moves s (s.withChannel c ((s.channel c).follow r)) := by
    refine .channel (.of_same ?_ ?_ ?_) <;> simp [Channel.follow_eq_enter]
  unfold State.leaveStep
  dsimp only
  split
  · exact (s.endRun_moves c).trans (State.complete_moves _ _ _ _)
  · refine .after_channel (State.complete_moves _ _ _ _) (.of_same ?_ ?_ ?_)
    · simp [Channel.swapAtMark, Channel.clearLoop]
    · simp [Channel.swapAtMark, Channel.clearLoop]
    · simp [Channel.swapAtMark, StepStore.exchange, Standby.waits]
  all_goals exact followed

theorem State.advanceStep_moves (c : ChannelId) (cause : AdvanceCause) : Moves s (s.advanceStep c cause) := by
  cases hr : (s.channel c).current with
  | none => rw [State.advanceStep_absent s c cause hr]
  | some r =>
    rw [State.advanceStep_of_current cause hr]
    have counted : Moves s (s.withChannel c (((s.channel c).seeded r).countMark r)) := by
      rw [Channel.countMark_seeded]
      exact .channel (.of_same rfl rfl id)
    have left := counted.trans (State.leaveStep_moves _ c r)
    dsimp only
    split
    · exact left.trans (State.offerReport_moves _ _ _)
    · exact left

theorem State.takeEdge_moves (c : ChannelId) : Moves s (s.takeEdge c) := by
  unfold State.takeEdge
  dsimp only
  split
  · exact .after_channel (State.faultEntry_moves _ _ _) (.of_same rfl rfl id)
  · have recorded : Moves s (s.withChannel c (s.channel c).edgeRecorded) := .channel (.of_same rfl rfl id)
    split
    · exact recorded.trans (State.advanceStep_moves _ _ _)
    · exact recorded

theorem State.offerEdges_moves (c : ChannelId) (n : Nat) (edges : List LineId) : Moves s (State.offerEdges c n edges s) := by
  induction n generalizing s edges with
  | zero => exact .refl
  | succ n ih =>
    unfold State.offerEdges
    split
    · exact .refl
    · exact (s.takeEdge_moves c).trans (ih _ _)

theorem State.sampleSense_moves (c : ChannelId) (sample : Table 3 Level) : Moves s (s.sampleSense c sample) :=
  .after_channel (State.offerEdges_moves _ _ _ _) (.of_same rfl rfl id)

/-! ### Windows and ticks -/

theorem State.forcedAdvance_moves (c : ChannelId) : Moves s (s.forcedAdvance c) := by
  unfold State.forcedAdvance
  dsimp only
  split
  · exact .after_channel (State.faultEntry_moves _ _ _) (.of_same rfl rfl id)
  · exact .after_channel (State.advanceStep_moves _ _ _) (.of_same rfl rfl id)

theorem State.findBlank_moves (c : ChannelId) : Moves s (s.findBlank c) := by
  unfold State.findBlank
  dsimp only
  split
  · exact .channel (.of_same rfl rfl id)
  · exact .refl

theorem State.findWindow_moves (c : ChannelId) : Moves s (s.findWindow c) := by
  unfold State.findWindow
  repeat' split
  · exact s.forcedAdvance_moves c
  · exact s.advanceStep_moves c _
  · exact s.advanceStep_moves c _
  · exact s.faultEntry_moves c _
  · exact .refl

theorem State.findDeadline_moves (c : ChannelId) : Moves s (s.findDeadline c) := by
  unfold State.findDeadline
  split
  · exact (s.endRun_moves c).trans (State.completeStop_moves _ _ _)
  · exact .refl

theorem State.findAll_moves (c : ChannelId) : Moves s (s.findAll c) := by
  have found := s.findBlank_moves c
  unfold State.findAll
  dsimp only
  split
  · have chosen := found.move (.choice _ ((s.findBlank c).choice + 1))
    split
    · exact (chosen.trans (State.findDeadline_moves _ c)).trans (State.findWindow_moves _ c)
    · exact (chosen.trans (State.findWindow_moves _ c)).trans (State.findDeadline_moves _ c)
  · exact (found.trans (State.findWindow_moves _ c)).trans (State.findDeadline_moves _ c)

/-- Counting a tick keeps whether the channel is idle, and whether it runs. -/
theorem Channel.countTick_calm {busy : Prop} (ch : Channel) (on : ch.isOn = true) : ch.Calm busy ch.countTick :=
  .of_not_idle (Channel.state_ne_idle_of_on on) (fun _ => on) id

theorem State.countTick_moves (c : ChannelId) : Moves s (s.countTick c) := by
  unfold State.countTick
  dsimp only
  split
  · exact (s.findAll_moves c).trans (Moves.channel (Channel.countTick_calm _ ‹_›))
  · exact s.findAll_moves c

theorem State.tick_moves (c : ChannelId) : Moves s (s.tick c) :=
  (s.countTick_moves c).trans (Moves.channel (.of_same rfl rfl id))

/-! ### Loads, fetches and discarded ends -/

theorem State.issueLoadRead_moves (c : ChannelId) : Moves s (s.issueLoadRead c) := by
  unfold State.issueLoadRead
  split
  · split
    · exact .refl
    · rename_i l loading _
      exact (Move.hand s _ _ rfl (.inr ⟨c, by rw [loading]; rfl⟩)).moves
  all_goals exact .refl

theorem State.dropDiscardedFetch_moves : Moves s s.dropDiscardedFetch := by
  unfold State.dropDiscardedFetch
  split
  · exact (Move.endDiscarded s _).moves
  · exact .refl

theorem State.freeSlot_eq_some {s : State} {k : SlotId} (h : s.freeSlot = some k) : s.slot k = .free := by
  simpa using List.find?_some h

/-- The arbiter chooses an eligible queue. -/
theorem State.eligible_of_choose {s : State} {q : QueueId} (h : s.choose = some q) : s.eligible q = true := by
  cases admin : s.eligible 0 with
  | true =>
    rw [State.choose_of_admin admin] at h
    cases h
    exact admin
  | false =>
    obtain ⟨n, chosen, _⟩ := (State.choose_eq_some_iff_of_not_admin admin q).1 h
    exact ((s.chosenOfClass_eq_some_iff n q).1 chosen).2.1.1

theorem State.startFetch_moves : Moves s s.startFetch := by
  unfold State.startFetch
  split
  · split
    · rename_i chosen free
      split
      · rename_i bound
        exact (Move.startFetch s _ _ _ ‹_› (State.eligible_of_choose chosen) (State.freeSlot_eq_some free) bound).moves
      · exact .refl
    · exact .refl
  · exact .refl

theorem State.settle_moves : Moves s s.settle :=
  ((((s.startFetch_moves.move (.begin _)).move (.begin _)).move (.begin _)).move (.begin _))

/-! ### Dispatch -/

theorem State.returning_eq_some {s : State} {f : FetchRecord} (h : s.returning = some f) :
    s.fetch = some f ∧ s.port.answers (.fetch f.sq) = true ∧ ∃ age b, s.slot f.slot = .fetching age f.sq b := by
  unfold State.returning at h
  split at h
  · rename_i g hg
    split at h
    · rename_i age sq b hslot
      split at h
      · rename_i ok
        cases h
        obtain ⟨answers, same⟩ := Bool.and_eq_true_iff.1 ok
        exact ⟨hg, answers, age, b, by rw [hslot, eq_of_beq same]⟩
      · cases h
    all_goals cases h
  · cases h

/-- The slot of a returned fetch is WORKING (R107). -/
theorem State.takeRecord_slot {s : State} {f : FetchRecord} {age : Nat} {b : QueueId} (code : CommandCode) (tag : BitVec 16)
    (channel : Byte) (h : s.slot f.slot = .fetching age f.sq b) :
    (s.takeRecord f code tag channel).slot f.slot = .working
      { age := age, sq := f.sq, cq := b, code := code, tag := tag, channel := channel, owner := code.owner } := by
  unfold State.takeRecord
  rw [h]
  exact Table.read_write_self _ _ _

theorem State.dispatch_moves {code : CommandCode} {tag : BitVec 16} {channel : Byte} {owner : SlotId → State → State}
    (ho : ∀ k (u : State), u.Busy → Moves u (owner k u)) : Moves s (s.dispatch code tag channel owner) := by
  unfold State.dispatch
  split
  · exact s.dropDiscardedFetch_moves
  · rename_i f hf
    obtain ⟨_, _, age, b, hslot⟩ := State.returning_eq_some hf
    have taken := (Move.takeRecord s f code tag channel hf).moves
    have busy : (s.takeRecord f code tag channel).Busy := ⟨_, _, State.takeRecord_slot code tag channel hslot⟩
    dsimp only
    repeat' split
    · exact taken.trans (State.complete_moves _ _ _ _)
    · exact taken.trans (State.complete_moves _ _ _ _)
    · exact taken.trans (State.complete_moves _ _ _ _)
    · exact taken.trans (ho _ _ busy)

theorem onChannel_moves {channel : Byte} {owner : ChannelId → SlotId → State → State}
    (ho : ∀ c k (u : State), u.Busy → Moves u (owner c k u)) (k : SlotId) (u : State) (busy : u.Busy) :
    Moves u (onChannel channel owner k u) := by
  unfold onChannel
  split
  · exact ho _ _ _ busy
  · exact .refl

theorem atEvent_moves {s t : State} {f : State → State} (hf : ∀ u : State, Moves u (f u)) (e : atEvent f s = .next t) :
    Moves s t := by
  unfold atEvent at e
  cases e
  split
  · exact .refl
  · exact s.settle_moves.trans (hf _)

end Sys2Proof.Machine
end

section
/-! Each command and the clock as moves: the conditions of the moves are what the command has checked when it makes them. -/

namespace Sys2Proof.Machine

/-- What a step can do: moves, and at its end perhaps the entry into FATAL (R133, R154). -/
def Stepped (s t : State) : Prop :=
  ∃ u, Moves s u ∧ (t = u ∨ ∃ cause, (cause = .adminFetchError ∨ cause = .adminWriteError) ∧ t = u.enterFatal cause)

theorem Moves.vectors {s : State} {v : VectorUnit}
    (h : (s.engine.state ≠ .halting ∧ s.port.begun ≠ []) ∨
      ((∀ q, s.vectors.timers.read q = none) →
        (∀ q, v.timers.read q = none) ∧ (s.vectors.pending = 0 → v.pending = 0))) : Moves s (s.withVectors v) :=
  (Move.vectors s v h).moves

theorem Moves.stepped {s t : State} (h : Moves s t) : Stepped s t := ⟨t, h, .inl rfl⟩

/-! ### The port -/

theorem Port.begunOf_eq_some {p : Port} {r : Requester} {t : Transaction} (h : p.begunOf r = some t) :
    t ∈ p.begun ∧ t.requester = r :=
  ⟨List.mem_of_find?_eq_some h, by simpa using List.find?_some h⟩

theorem Port.answers_iff (p : Port) (r : Requester) :
    p.answers r = true ↔ ∃ t, p.begunOf r = some t ∧ t.refused = false ∧ t.discarded = false := by
  unfold Port.answers
  cases p.begunOf r <;> simp

theorem Port.fails_iff (p : Port) (r : Requester) :
    p.fails r = true ↔ ∃ t, p.begunOf r = some t ∧ t.discarded = false := by
  unfold Port.fails
  cases p.begunOf r <;> simp

theorem Port.hasDiscarded_iff (p : Port) (r : Requester) :
    p.hasDiscarded r = true ↔ ∃ t, p.begunOf r = some t ∧ t.discarded = true := by
  unfold Port.hasDiscarded
  cases p.begunOf r <;> simp

theorem Port.fails_of_answers {p : Port} {r : Requester} (h : p.answers r = true) : p.fails r = true := by
  obtain ⟨t, found, _, wanted⟩ := (p.answers_iff r).1 h
  exact (p.fails_iff r).2 ⟨t, found, wanted⟩

theorem Port.begun_ne_nil_of_fails {p : Port} {r : Requester} (h : p.fails r = true) : p.begun ≠ [] := by
  obtain ⟨t, found, _⟩ := (p.fails_iff r).1 h
  exact List.ne_nil_of_mem (Port.begunOf_eq_some found).1

/-! ### The step store's commands (chapter 1) -/

theorem State.loadSteps_moves {first count : Nat} {clearRest : Bool} {source : Addr} (c : ChannelId) (k : SlotId) (u : State)
    (busy : u.Busy) : Moves u (State.loadSteps first count clearRest source c k u) := by
  unfold State.loadSteps
  repeat' split
  · exact u.complete_moves _ _ _
  · exact u.complete_moves _ _ _
  · exact u.complete_moves _ _ _
  · exact .after_channel (State.issueLoadRead_moves _ _) (.of_busy busy)

theorem State.commitSteps_moves (c : ChannelId) (k : SlotId) (u : State) (busy : u.Busy) :
    Moves u (State.commitSteps c k u) := by
  unfold State.commitSteps
  dsimp only
  repeat' split
  · exact u.complete_moves _ _ _
  · exact u.complete_moves _ _ _
  · exact .channel (.of_busy busy)
  · exact .after_channel (State.complete_moves _ _ _ _) (.of_busy busy)

theorem State.failLoad_moves (s : State) (c : ChannelId) (l : Load) (status : Status) (detail : Nat) :
    Moves s (s.failLoad c l status detail) :=
  .after_channel (State.complete_moves _ _ _ _) (.of_same rfl rfl (by simp [Channel.withStandby, StepStore.withStandby]))

theorem State.takeStepRecord_moves (s : State) (c : ChannelId) (l : Load) (bytes : Table 16 Byte)
    (loading : (s.channel c).store.standby = .loading l) : Moves s (s.takeStepRecord c l bytes) := by
  unfold State.takeStepRecord
  repeat' split
  · exact s.failLoad_moves _ _ _ _
  · exact .after_channel (State.complete_moves _ _ _ _) (.of_same rfl rfl nofun)
  · exact .after_channel (State.issueLoadRead_moves _ _) (.of_same rfl rfl fun _ => by rw [loading]; rfl)

theorem State.endOldLoadRead_moves (s : State) (c : ChannelId) : Moves s (s.endOldLoadRead c) :=
  (Move.endDiscarded s _).moves.trans (State.issueLoadRead_moves _ _)

theorem State.loadRecordArrival_moves (s : State) (c : ChannelId) (bytes : Table 16 Byte) :
    Moves s (s.loadRecordArrival c bytes) := by
  unfold State.loadRecordArrival
  split
  · rename_i answers
    split
    · rename_i l loading
      exact (Move.drop s _ (.inr ⟨rfl, Port.fails_of_answers answers⟩)).moves.trans (State.takeStepRecord_moves _ c l bytes loading)
    all_goals exact (Move.endDiscarded s _).moves
  · split
    · exact s.endOldLoadRead_moves c
    · exact .refl

theorem State.loadReadBusError_moves (s : State) (c : ChannelId) : Moves s (s.loadReadBusError c) := by
  unfold State.loadReadBusError
  split
  · rename_i fails
    split
    · exact (Move.drop s _ (.inr ⟨rfl, fails⟩)).moves.trans (State.failLoad_moves _ _ _ _ _)
    all_goals exact (Move.endDiscarded s _).moves
  · split
    · exact s.endOldLoadRead_moves c
    · exact .refl

/-! ### The sequencer's commands (chapters 2, 3 and 5) -/

theorem State.start_moves {reference : Nat} (c : ChannelId) (k : SlotId) (u : State) (busy : u.Busy) :
    Moves u (State.start reference c k u) := by
  unfold State.start
  dsimp only
  repeat' split
  · exact u.complete_moves _ _ _
  · exact u.complete_moves _ _ _
  · exact u.complete_moves _ _ _
  · exact u.complete_moves _ _ _
  · exact .after_channel (State.complete_moves _ _ _ _) (.of_busy busy)

theorem State.stopNow_moves (s : State) (c : ChannelId) (k : SlotId) : Moves s (s.stopNow c k) :=
  ((s.endRun_moves c).trans (State.completeStop_moves _ _ _)).trans (State.complete_moves _ _ _ _)

theorem State.stop_moves {mode : Option StopMode} {deadline : Nat} (c : ChannelId) (k : SlotId) (u : State) (busy : u.Busy) :
    Moves u (State.stop mode deadline c k u) := by
  unfold State.stop
  split
  · exact u.complete_moves _ _ _
  · exact u.complete_moves _ _ _
  · exact u.complete_moves _ _ _
  · exact u.stopNow_moves c k
  · exact u.stopNow_moves c k
  · exact .channel (.of_busy busy)
  · exact u.complete_moves _ _ _

theorem State.advance_moves (c : ChannelId) (k : SlotId) (u : State) : Moves u (State.advance c k u) := by
  unfold State.advance
  split
  · exact (u.advanceStep_moves c _).trans (State.complete_moves _ _ _ _)
  · exact u.complete_moves _ _ _

theorem State.clearFault_moves (c : ChannelId) (k : SlotId) (u : State) (busy : u.Busy) : Moves u (State.clearFault c k u) := by
  unfold State.clearFault
  dsimp only
  repeat' split
  · exact u.complete_moves _ _ _
  · exact u.complete_moves _ _ _
  · exact .after_channel (State.complete_moves _ _ _ _) (.of_busy busy)

theorem State.findTimeout_moves (s : State) (c : ChannelId) : Moves s (s.findTimeout c) := by
  unfold State.findTimeout
  split
  · exact s.forcedAdvance_moves c
  · exact .refl

theorem State.findDelayEnd_moves (s : State) (c : ChannelId) : Moves s (s.findDelayEnd c) := by
  unfold State.findDelayEnd
  split
  · exact s.advanceStep_moves c _
  · exact .refl

theorem State.findLength_moves (s : State) (c : ChannelId) : Moves s (s.findLength c) := by
  unfold State.findLength
  split
  · exact s.advanceStep_moves c _
  · exact .refl

theorem State.findHostLimit_moves (s : State) (c : ChannelId) : Moves s (s.findHostLimit c) := by
  unfold State.findHostLimit
  split
  · exact s.faultEntry_moves c _
  · exact .refl

theorem State.saturateSpan_moves (s : State) (c : ChannelId) : Moves s (s.saturateSpan c) := by
  unfold State.saturateSpan
  repeat' split
  · exact .refl
  · exact s.tick_moves c
  · exact .channel (.of_same rfl rfl id)
  · exact .refl

/-! ### The lines of a channel (chapter 4) -/

theorem State.setDuty_moves {duty : Nat} (c : ChannelId) (k : SlotId) (u : State) : Moves u (State.setDuty duty c k u) := by
  unfold State.setDuty
  split
  · exact u.complete_moves _ _ _
  · exact .after_channel (State.complete_moves _ _ _ _) (.of_same rfl rfl id)

theorem State.tripSampled_moves (s : State) (c : ChannelId) : Moves s (s.tripSampled c) := by
  unfold State.tripSampled
  split
  · exact s.faultEntry_moves c _
  · exact .refl

theorem State.tripLine_moves (s : State) (c : ChannelId) (sample : Level) :
    Moves s ((s.withChannel c ((s.channel c).withTripLine sample)).tripSampled c) :=
  .after_channel (State.tripSampled_moves _ c) (.of_same rfl rfl id)

theorem State.periodStarted_moves (s : State) (c : ChannelId) : Moves s (s.withChannel c (s.channel c).periodStarted) :=
  .channel (.of_same rfl rfl id)

/-! ### The command table's commands (chapter 6) -/

theorem State.readChannel_moves {destination : Addr} (k : SlotId) (u : State) (busy : u.Busy) :
    Moves u (State.readChannel destination k u) := by
  unfold State.readChannel
  repeat' split
  · exact u.complete_moves _ _ _
  · exact u.complete_moves _ _ _
  · exact (Move.hand u _ _ rfl (.inl busy)).moves

theorem State.setChannel_moves {x : Option Settings} (c : ChannelId) (k : SlotId) (u : State) :
    Moves u (State.setChannel x c k u) := by
  unfold State.setChannel
  repeat' split
  · exact u.complete_moves _ _ _
  · exact u.complete_moves _ _ _
  · exact u.complete_moves _ _ _
  · exact .after_channel (State.complete_moves _ _ _ _) (.of_same rfl rfl id)

theorem State.cancel_moves {queue : Byte} {target : BitVec 16} (k : SlotId) (u : State) (busy : u.Busy) :
    Moves u (State.cancel queue target k u) := by
  unfold State.cancel
  repeat' split
  · exact u.complete_moves _ _ _
  · exact u.complete_moves _ _ _
  · exact (Move.cancels u _ fun _ => .inr busy).moves
  · exact u.complete_moves _ _ _

theorem State.withdraw_moves {s t : State} {c : ChannelId} {k : SlotId} {code : CommandCode} (h : s.withdraw c k code = some t) :
    Moves s t := by
  unfold State.withdraw at h
  split at h
  · split at h
    · rename_i l _
      split at h
      · cases h
        have given_up : Moves s (s.withChannel c ((s.channel c).withStandby l.prior.toStandby)) :=
          .channel (.of_same rfl rfl (by simp [Channel.withStandby, StepStore.withStandby]))
        exact given_up.move (.discardOf _ (.load c))
      · cases h
    all_goals cases h
  · split at h
    · cases h
      exact .channel (.of_same rfl rfl nofun)
    · cases h
  · split at h
    · rename_i g stopping
      split at h
      · cases h
        have on : (s.channel c).isOn = true := by unfold Channel.isOn; rw [stopping]; rfl
        exact .channel (.of_not_idle (Channel.state_ne_idle_of_on on) (fun _ => on) id)
      · cases h
    all_goals cases h
  all_goals cases h

theorem State.takeCancel_moves (s : State) (x : CancelRequest) : Moves s (s.takeCancel x) := by
  unfold State.takeCancel
  dsimp only
  split
  · rename_i t waiting
    refine Relation.ReflTransGen.trans (b := t) ?_ ((t.complete_moves _ _ _).trans (State.complete_moves _ _ _ _))
    split at waiting
    · split at waiting
      · exact State.withdraw_moves waiting
      · cases waiting
    · cases waiting
  · exact s.complete_moves _ _ _

theorem State.cancelRequest_moves (s : State) (k : SlotId) : Moves s (s.cancelRequest k) := by
  unfold State.cancelRequest
  split
  · have taken : Moves s { s with cancels := s.cancels.eraseP fun y => y.canceller == k } :=
      (Move.cancels s _ fun none_waits => .inl (by rw [none_waits]; rfl)).moves
    exact taken.trans (State.takeCancel_moves _ _)
  · exact .refl

theorem State.snapshotDone_moves (s : State) (k : SlotId) : Moves s (s.snapshotDone k) := by
  unfold State.snapshotDone
  repeat' split
  · rename_i answers
    exact (Move.drop s _ (.inr ⟨rfl, Port.fails_of_answers answers⟩)).moves.trans (State.complete_moves _ _ _ _)
  · exact (Move.endDiscarded s _).moves
  · exact .refl

theorem State.snapshotFailed_moves (s : State) (k : SlotId) : Moves s (s.snapshotFailed k) := by
  unfold State.snapshotFailed
  repeat' split
  · rename_i fails
    exact (Move.drop s _ (.inr ⟨rfl, fails⟩)).moves.trans (State.complete_moves _ _ _ _)
  · exact (Move.endDiscarded s _).moves
  · exact .refl

/-! ### The fetch unit's commands (chapter 7) -/

theorem State.openSq_moves {queue boundCq priority : Byte} {size : Nat} {base : Addr} (k : SlotId) (u : State) (busy : u.Busy) :
    Moves u (State.openSq queue boundCq priority size base k u) := by
  unfold State.openSq
  split
  · exact u.complete_moves _ _ _
  · rename_i q _
    split
    · exact u.complete_moves _ _ _
    · rename_i closed
      split
      · exact u.complete_moves _ _ _
      · rename_i p _
        split
        · exact u.complete_moves _ _ _
        · rename_i valid
          split
          · exact u.complete_moves _ _ _
          · rename_i b _
            split
            · exact u.complete_moves _ _ _
            · rename_i opened
              split
              · exact u.complete_moves _ _ _
              · rename_i covered
                simp only [sizeInRange, inRange, Bool.not_eq_true', Bool.not_eq_false, Bool.and_eq_true, decide_eq_true_eq] at valid
                refine (Move.openSq u q b _ busy (not_not.1 closed) (not_not.1 opened) rfl ?_ ?_ ?_).moves.trans
                  (State.complete_moves _ _ _ _)
                · show 0 < size
                  omega
                · show 0 < size
                  omega
                · simpa using covered

theorem State.beginClose_moves (s : State) (q : QueueId) (k : SlotId) (h : (s.sq q).state ≠ .closed) :
    Moves s (s.beginClose q k) := by
  unfold State.beginClose
  split
  · exact (Move.closingSq s q k h).moves
  · rename_i unused
    exact (Move.closeSq s q (by simpa using unused)).moves.trans (State.complete_moves _ _ _ _)

theorem State.closeSq_moves {queue : Byte} (k : SlotId) (u : State) : Moves u (State.closeSq queue k u) := by
  unfold State.closeSq
  split
  · exact u.complete_moves _ _ _
  · split
    · exact u.complete_moves _ _ _
    · exact u.complete_moves _ _ _
    · rename_i opened
      exact u.beginClose_moves _ _ (by rw [opened]; exact nofun)
    · rename_i broken
      exact u.beginClose_moves _ _ (by rw [broken]; exact nofun)

theorem State.failingFetch_eq_some {s : State} {f : FetchRecord} (h : s.failingFetch = some f) :
    s.fetch = some f ∧ s.port.fails (.fetch f.sq) = true := by
  unfold State.failingFetch at h
  split at h
  · split at h
    · cases h
      exact ⟨‹_›, ‹_›⟩
    · cases h
  · cases h

theorem State.failFetch_moves {s : State} {f : FetchRecord} (h : s.failingFetch = some f) : Moves s (s.failFetch f) :=
  (Move.failFetch s f (State.failingFetch_eq_some h).1).moves.trans (State.offerQueueNotice_moves _ _ _ _)

theorem State.fetchReadError_moves (s : State) : Moves s s.fetchReadError := by
  unfold State.fetchReadError
  split
  · split
    · exact .refl
    · exact State.failFetch_moves ‹_›
  · exact s.dropDiscardedFetch_moves

theorem State.adminFetchError_stepped (s : State) : Stepped s s.adminFetchError := by
  unfold State.adminFetchError
  split
  · split
    · exact ⟨_, State.failFetch_moves ‹_›, .inr ⟨_, .inl rfl, rfl⟩⟩
    · exact Moves.stepped .refl
  · exact s.dropDiscardedFetch_moves.stepped

theorem State.post_moves (s : State) (q : QueueId) (tail : Nat) : Moves s (s.post q tail) := by
  unfold State.post
  split
  · rename_i taken
    obtain ⟨_, opened, below⟩ := taken
    exact (Move.post s q tail opened below).moves
  · exact s.offerQueueNotice_moves _ _ _

/-! ### The completion writer's commands (chapter 8) -/

/-- Clearing a queue's count and timer starts no timer and sets no flag. -/
theorem VectorUnit.clearQueue_timers (v : VectorUnit) (q : QueueId) (h : ∀ i, v.timers.read i = none) (i : QueueId) :
    (v.clearQueue q).timers.read i = none := by
  unfold VectorUnit.clearQueue
  rw [Table.read_write]
  split
  · rfl
  · exact h i

theorem State.clearQueue_moves (s : State) (q : QueueId) : Moves s (s.withVectors (s.vectors.clearQueue q)) :=
  (Move.vectors s _ (.inr fun stopped => ⟨VectorUnit.clearQueue_timers _ q stopped, id⟩)).moves

theorem State.openCq_moves {queue vector threshold time : Byte} {size : Nat} {base : Addr} (k : SlotId) (u : State)
    (busy : u.Busy) : Moves u (State.openCq queue vector threshold time size base k u) := by
  unfold State.openCq
  split
  · exact u.complete_moves _ _ _
  · rename_i q _
    split
    · exact u.complete_moves _ _ _
    · rename_i closed
      split
      · exact u.complete_moves _ _ _
      · split
        · exact u.complete_moves _ _ _
        · rename_i valid
          split
          · exact u.complete_moves _ _ _
          · rename_i covered
            simp only [sizeInRange, inRange, Bool.not_eq_true', Bool.not_eq_false, Bool.and_eq_true, decide_eq_true_eq] at valid
            refine Relation.ReflTransGen.trans (Move.openCq u q _ busy (not_not.1 closed) rfl ?_ ?_ ?_ rfl ?_).moves
              ((State.clearQueue_moves _ q).trans (State.complete_moves _ _ _ _))
            · show 0 < size
              omega
            · show 0 < size
              omega
            · simp [CqContext.occupied]
            · simpa using covered

theorem State.closeCq_moves {queue : Byte} (k : SlotId) (u : State) : Moves u (State.closeCq queue k u) := by
  unfold State.closeCq
  repeat' split
  · exact u.complete_moves _ _ _
  · exact u.complete_moves _ _ _
  · exact u.complete_moves _ _ _
  · rename_i q _ _ free
    have unbound : u.isBound q = false := by
      simp only [Bool.not_eq_true, Bool.or_eq_false_iff] at free
      exact free.1.1
    exact ((Move.closeCq u q unbound).moves.trans (State.clearQueue_moves _ q)).trans (State.complete_moves _ _ _ _)

/-- While a timer runs, any change of the vector unit is a move. -/
theorem State.vectors_moves_of_timer {s : State} {q : QueueId} {n : Nat} (running : s.vectors.timers.read q = some n)
    (v : VectorUnit) : Moves s (s.withVectors v) :=
  (Move.vectors s v (.inr fun stopped => by rw [stopped q] at running; cases running)).moves

theorem State.expireTimer_moves (s : State) (q : QueueId) : Moves s (s.expireTimer q) := by
  unfold State.expireTimer
  split
  · exact State.vectors_moves_of_timer ‹_› _
  · exact .refl

theorem State.clearPending_moves (s : State) (clear : BitVec 4) :
    Moves s (s.withVectors { s.vectors with pending := s.vectors.pending &&& ~~~clear }) :=
  .vectors (.inr fun stopped => ⟨stopped, fun none_pends => by simp [none_pends]⟩)

theorem State.setMask_moves (s : State) (mask : BitVec 4) : Moves s (s.withVectors { s.vectors with mask := mask }) :=
  .vectors (.inr fun stopped => ⟨stopped, id⟩)

/-- The end of a ring write: the port's set and the other blocks change apart, so the moves may come in any order. -/
theorem State.cqWriteDone_moves (s : State) (q : QueueId) : Moves s (s.cqWriteDone q) := by
  unfold State.cqWriteDone
  split
  · rename_i answers
    have writing := Port.begun_ne_nil_of_fails (Port.fails_of_answers answers)
    split
    · rename_i r rest list
      have wrote : Moves s (s.withCq q (s.cq q).afterWrite) := (Move.wrote s q (by rw [list]; exact nofun)).moves
      dsimp only
      split
      · exact wrote.move (.endDiscarded _ (.cqWrite q))
      · rename_i not_halting
        have counted := wrote.move (.vectors _ (s.vectors.count q (s.cq q) r) (.inl ⟨not_halting, writing⟩))
        exact (counted.move (.drop _ (.cqWrite q) (.inl not_halting))).move (.handWrite _ q)
    · exact (Move.endDiscarded s _).moves
  · exact .refl

/-- A queue breaks while the write that fails is still begun, and then the write ends. -/
theorem State.dropBegun_breakCq_moves {s : State} {q : QueueId} (fails : s.port.fails (.cqWrite q) = true)
    (not_halting : s.engine.state ≠ .halting) : Moves s ((s.dropBegun (.cqWrite q)).breakCq q) :=
  (Move.breakCq s q (Port.begun_ne_nil_of_fails fails)).moves.move (.drop _ (.cqWrite q) (.inl not_halting))

theorem State.cqWriteError_moves (s : State) (q : QueueId) : Moves s (s.cqWriteError q) := by
  unfold State.cqWriteError
  repeat' split
  · exact (Move.endDiscarded s _).moves
  · exact (State.dropBegun_breakCq_moves ‹_› ‹_›).trans (State.offerQueueNotice_moves _ _ _ _)
  · exact .refl

theorem State.adminWriteError_stepped (s : State) : Stepped s s.adminWriteError := by
  unfold State.adminWriteError
  dsimp only
  repeat' split
  · exact (Move.endDiscarded s _).moves.stepped
  · exact ⟨_, State.dropBegun_breakCq_moves ‹_› ‹_›, .inr ⟨_, .inr rfl, rfl⟩⟩
  · exact (State.dropBegun_breakCq_moves ‹_› ‹_›).stepped
  · exact Moves.stepped .refl

theorem State.release_moves (s : State) (q : QueueId) (head : Nat) : Moves s (s.release q head) := by
  unfold State.release
  dsimp only
  split
  · have moved := (Move.release s q head ‹_›).moves
    split
    · exact moved
    · exact moved.trans (State.forChannels_moves _ fun t c => t.offerHeld_moves q c)
  · exact s.offerQueueNotice_moves _ _ _

/-! ### The port and the window checker (chapter 9) -/

theorem State.setWindow_moves {number rights : Byte} {length : Nat} {base : Addr} (k : SlotId) (u : State) :
    Moves u (State.setWindow number rights length base k u) := by
  unfold State.setWindow
  split
  · split
    · exact u.complete_moves _ _ _
    · rename_i n w _ _ free
      have covered : u.ringsCovered (u.windows.write n w) = true := by
        simp only [Bool.not_eq_true, Bool.or_eq_false_iff, Bool.not_eq_false'] at free
        exact free.2
      exact (Move.windows u _ covered).moves.trans (State.complete_moves _ _ _ _)
  · exact u.complete_moves _ _ _

theorem State.discardedEnd_moves (s : State) (r : Requester) : Moves s (s.discardedEnd r) := by
  unfold State.discardedEnd
  split
  · refine (Move.endDiscarded s r).moves.trans ?_
    unfold State.afterDiscarded
    split
    · exact State.issueLoadRead_moves _ _
    all_goals exact .refl
  · exact .refl

/-! ### The engine (chapter 10) -/

theorem State.enable_moves (s : State) : Moves s s.enable := by
  unfold State.enable
  repeat' split
  · exact .refl
  · exact (Move.enable s (not_not.1 ‹_›) ‹_›).moves
  · rename_i halted _
    exact (Move.engine s { s.engine with cause := .adminConfig } (not_not.1 halted) (not_not.1 halted)).moves

theorem State.haltWrite_moves (s : State) : Moves s s.haltWrite := by
  unfold State.haltWrite
  split
  · exact (Move.halt s (.inl ‹_›)).moves
  · exact (Move.halt s (.inr ‹_›)).moves
  all_goals exact .refl

theorem State.haltEnd_moves (s : State) : Moves s s.haltEnd := by
  unfold State.haltEnd
  split
  · rename_i last
    exact (Move.haltEnd s last.1).moves
  · exact .refl

theorem State.adminWrite_moves (s : State) (r : AdminRegister) (value : BitVec 32) : Moves s (s.adminWrite r value) := by
  unfold State.adminWrite
  split
  · rename_i halted
    refine (Move.engine s _ halted ?_).moves
    cases r <;> exact halted
  · exact .refl

/-! ### Every command, the clock and the step -/

/-- Every command is moves, and at its end perhaps the entry into FATAL. -/
theorem exec_stepped {i : Instr} {s t : State} (e : exec i s = .next t) : Stepped s t := by
  have event {f : State → State} (hf : ∀ u : State, Moves u (f u)) (e : atEvent f s = .next t) : Stepped s t :=
    (atEvent_moves hf e).stepped
  have event_stepped {f : State → State} (hf : ∀ u : State, Stepped u (f u)) (e : atEvent f s = .next t) : Stepped s t := by
    unfold atEvent at e
    cases e
    split
    · exact Moves.stepped .refl
    · obtain ⟨v, moves, rest⟩ := hf s.settle
      exact ⟨v, s.settle_moves.trans moves, rest⟩
  have by_itself {u : State} (h : Moves s u) (e : Host.Outcome.next u = (.next t : Host.Outcome State Fault Refusal)) :
      Stepped s t := by
    cases e
    exact h.stepped
  cases i with
  | loadSteps => exact event (fun u => u.dispatch_moves (onChannel_moves State.loadSteps_moves)) e
  | commitSteps => exact event (fun u => u.dispatch_moves (onChannel_moves State.commitSteps_moves)) e
  | start => exact event (fun u => u.dispatch_moves (onChannel_moves State.start_moves)) e
  | stop => exact event (fun u => u.dispatch_moves (onChannel_moves State.stop_moves)) e
  | advance => exact event (fun u => u.dispatch_moves (onChannel_moves fun c k u _ => State.advance_moves c k u)) e
  | clearFault => exact event (fun u => u.dispatch_moves (onChannel_moves State.clearFault_moves)) e
  | setDuty => exact event (fun u => u.dispatch_moves (onChannel_moves fun c k u _ => State.setDuty_moves c k u)) e
  | readChannel => exact event (fun u => u.dispatch_moves State.readChannel_moves) e
  | openSq => exact event (fun u => u.dispatch_moves State.openSq_moves) e
  | closeSq => exact event (fun u => u.dispatch_moves fun k u _ => State.closeSq_moves k u) e
  | openCq => exact event (fun u => u.dispatch_moves State.openCq_moves) e
  | closeCq => exact event (fun u => u.dispatch_moves fun k u _ => State.closeCq_moves k u) e
  | setWindow => exact event (fun u => u.dispatch_moves fun k u _ => State.setWindow_moves k u) e
  | setChannel => exact event (fun u => u.dispatch_moves (onChannel_moves fun c k u _ => State.setChannel_moves c k u)) e
  | cancel => exact event (fun u => u.dispatch_moves State.cancel_moves) e
  | unknownCommand tag code =>
    change execUnknownCommand tag code s = _ at e
    unfold execUnknownCommand at e
    split at e
    · cases e
    · exact event (fun u => u.dispatch_moves fun k u _ => u.complete_moves k _ _) e
  | cancelRequest k => exact event (fun u => u.cancelRequest_moves k) e
  | fetchStart =>
    refine by_itself ?_ e
    split
    · exact .refl
    · exact s.startFetch_moves
  | fetchReadError => exact event State.fetchReadError_moves e
  | adminFetchError => exact event_stepped State.adminFetchError_stepped e
  | loadRecordArrival c bytes => exact event (fun u => u.loadRecordArrival_moves c bytes) e
  | loadReadBusError c => exact event (fun u => u.loadReadBusError_moves c) e
  | portBeginTransaction =>
    refine by_itself ?_ e
    split
    · exact .refl
    · exact (Move.begin s).moves
  | snapshotWriteDone k => exact event (fun u => u.snapshotDone_moves k) e
  | snapshotWriteError k => exact event (fun u => u.snapshotFailed_moves k) e
  | cqWriteDone q => exact event (fun u => u.cqWriteDone_moves q) e
  | cqWriteError q =>
    change execCqWriteError q s = _ at e
    unfold execCqWriteError at e
    split at e
    · cases e
    · exact event (fun u => u.cqWriteError_moves q) e
  | adminWriteError => exact event_stepped State.adminWriteError_stepped e
  | discardedTransactionEnd r => exact event (fun u => u.discardedEnd_moves r) e
  | coalescingTimerExpiry q => exact event (fun u => u.expireTimer_moves q) e
  | blankEnd c => exact event (fun u => u.findBlank_moves c) e
  | timeout c => exact event (fun u => u.findTimeout_moves c) e
  | delayEnd c => exact event (fun u => u.findDelayEnd_moves c) e
  | lengthEnd c => exact event (fun u => u.findLength_moves c) e
  | hostLimitExpiry c => exact event (fun u => u.findHostLimit_moves c) e
  | deadline c => exact event (fun u => u.findDeadline_moves c) e
  | spanCounterSaturation c => exact event (fun u => u.saturateSpan_moves c) e
  | senseEdge c sample => exact event (fun u => u.sampleSense_moves c sample) e
  | trip c sample => exact event (fun u => u.tripLine_moves c sample) e
  | periodStart c => exact event (fun u => u.periodStarted_moves c) e
  | post q tail => exact event (fun u => u.post_moves q _) e
  | release q head => exact event (fun u => u.release_moves q _) e
  | vectorStatus clear => exact event (fun u => u.clearPending_moves clear) e
  | vectorMask mask => exact event (fun u => u.setMask_moves mask) e
  | adminRegisterWrite r value => exact event (fun u => u.adminWrite_moves r value) e
  | registerWriteIgnored offset value =>
    change execRegisterWriteIgnored offset value s = _ at e
    unfold execRegisterWriteIgnored at e
    split at e
    · exact event (fun u => .refl) e
    · cases e
  | enable => exact event State.enable_moves e
  | halt => exact event State.haltWrite_moves e
  | haltEnd => exact event State.haltEnd_moves e
  | softReset run =>
    refine by_itself ?_ e
    split
    · exact .refl
    · exact (Move.reset s _).moves
  | powerOnReset => exact by_itself (Move.reset s _).moves e
  | pinReset => exact by_itself ((Move.reset s _).moves.move (.pin _ true)) e
  | tick c => exact event (fun u => u.tick_moves c) e
  | resetPinRelease => exact by_itself (Move.pin s false).moves e

theorem State.timerTick_moves (s : State) (q : QueueId) : Moves s (s.timerTick q) := by
  unfold State.timerTick
  split
  · exact .refl
  · rename_i n running
    have counted := State.vectors_moves_of_timer running { s.vectors with timers := s.vectors.timers.write q (some (n + 1)) }
    dsimp only
    split
    · exact counted.trans (State.expireTimer_moves _ q)
    · exact counted

theorem foldl_moves {α : Type} {f : State → α → State} (hf : ∀ (t : State) (a : α), Moves t (f t a)) (l : List α) (s : State) :
    Moves s (l.foldl f s) := by
  induction l generalizing s with
  | nil => exact .refl
  | cons a rest ih => exact (hf s a).trans (ih _)

theorem State.timebaseClock_moves (s : State) : Moves s s.timebaseClock := by
  have turned (n : Nat) : Moves s (s.withVectors { s.vectors with timebase := n }) :=
    .vectors (.inr fun stopped => ⟨stopped, id⟩)
  unfold State.timebaseClock
  split
  · exact turned _
  · exact (turned 0).trans (foldl_moves State.timerTick_moves _ _)

theorem State.dividerClock_moves (s : State) (c : ChannelId) : Moves s (s.dividerClock c) := by
  unfold State.dividerClock
  repeat' split
  · exact .refl
  · exact .channel (.of_same rfl rfl id)
  · exact .after_channel (((State.countTick_moves _ c).trans (State.settle_moves _)).trans (State.findAll_moves _ c))
      (.of_same rfl rfl id)

theorem State.clockEvent_moves (s : State) (e : ClockEvent) : Moves s (s.clockEvent e) := by
  cases e with
  | tripSample c => exact s.tripSampled_moves c
  | senseSample c => exact s.sampleSense_moves c _
  | pwmClock c =>
    refine .channel ?_
    unfold Channel.pwmClock
    split <;> exact .of_same rfl rfl id
  | dividerClock c => exact s.dividerClock_moves c
  | timebase => exact s.timebaseClock_moves

theorem State.clock_moves (s : State) : Moves s s.clock := by
  unfold State.clock
  split
  · exact .refl
  · exact (Move.choice s _).moves.trans (foldl_moves (fun t e => t.settle_moves.trans (State.clockEvent_moves _ e)) _ _)

/-- A property that every move keeps is kept by moves. -/
theorem Moves.keeps {P : State → Prop} (move : ∀ s t : State, Move s t → P s → P t) {s t : State} (m : Moves s t) (h : P s) :
    P t := by
  induction m with
  | refl => exact h
  | tail _ m ih => exact move _ _ m ih

/-- A property that every move and the entry into FATAL keep, whatever commands wait, is kept by every step. -/
theorem step_keeps {P : State → Prop} (queue : ∀ (s : State) (l : List Instr), P s → P { s with pending := l })
    (move : ∀ s t : State, Move s t → P s → P t)
    (fatal : ∀ (s : State) (cause : EngineCause), cause = .adminFetchError ∨ cause = .adminWriteError → P s → P (s.enterFatal cause))
    {s t : State} (h : P s) (e : step s = .next t) : P t := by
  unfold step at e
  split at e
  · cases e
    exact s.clock_moves.keeps move h
  · obtain ⟨u, m, rfl | ⟨cause, admin, rfl⟩⟩ := exec_stepped e
    · exact m.keeps move (queue s _ h)
    · exact fatal _ cause admin (m.keeps move (queue s _ h))

/-- The state in which the entry into FATAL faults the channels: commands discarded, requests withdrawn (R179). -/
def State.fatalStart (s : State) (cause : EngineCause) : State :=
  State.withPort { s.discardCommands with engine := { s.engine with state := .fatal, cause := cause } } s.port.atFatal

theorem State.enterFatal_eq (s : State) (cause : EngineCause) :
    s.enterFatal cause = (s.fatalStart cause).forChannels fun u c => u.faultEntry c .engine := rfl

/-- The channels fault by moves, so the entry into FATAL keeps what moves keep from its start on. -/
theorem enterFatal_keeps {P : State → Prop} (move : ∀ s t : State, Move s t → P s → P t) {s : State} {cause : EngineCause}
    (h : P (s.fatalStart cause)) : P (s.enterFatal cause) := by
  rw [State.enterFatal_eq]
  exact (State.forChannels_moves _ fun u c => u.faultEntry_moves c .engine).keeps move h

end Sys2Proof.Machine
end

section
/-! What the shared operations do to the queues, the slots and the engine, one lemma per operation; and the bound of the port and the windows over the rings, kept by every step (R160, R168). -/

namespace Sys2Proof.Machine

variable (s : State)

/-! ### What accepting a record and ending a command leave -/

@[simp] theorem State.handCqWrite_engine (q : QueueId) : (s.handCqWrite q).engine = s.engine := by
  obtain ⟨p, e⟩ := s.handCqWrite_frame q
  rw [e]
@[simp] theorem State.handCqWrite_sq (q i : QueueId) : (s.handCqWrite q).sq i = s.sq i := by
  obtain ⟨p, e⟩ := s.handCqWrite_frame q
  rw [e]; rfl
@[simp] theorem State.handCqWrite_cq (q i : QueueId) : (s.handCqWrite q).cq i = s.cq i := by
  obtain ⟨p, e⟩ := s.handCqWrite_frame q
  rw [e]; rfl
@[simp] theorem State.handCqWrite_slot (q : QueueId) (k : SlotId) : (s.handCqWrite q).slot k = s.slot k := by
  obtain ⟨p, e⟩ := s.handCqWrite_frame q
  rw [e]; rfl

/-- What stays of the request list, and what a CQ's write adds to it (R147). -/
theorem State.handCqWrite_requests (q : QueueId) :
    (s.handCqWrite q).port.requests = s.port.requests ∨
      (s.engine.state ≠ .halting ∧ (s.cq q).state = .opened ∧
        (s.handCqWrite q).port.requests = s.port.requests ++
          [{ requester := .cqWrite q, address := (s.cq q).base + BitVec.ofNat 64 (16 * (s.cq q).tail),
             bytes := [], refused := false, discarded := false }]) := by
  unfold State.handCqWrite
  split
  · rename_i hands
    simp only [Bool.and_eq_true, bne_iff_ne, ne_eq, beq_iff_eq] at hands
    exact .inr ⟨hands.1.1.1, hands.1.1.2, rfl⟩
  · exact .inl rfl

@[simp] theorem State.appendRecord_engine (q : QueueId) (r : CqRecord) : (s.appendRecord q r).engine = s.engine := by
  simp [State.appendRecord]
@[simp] theorem State.appendRecord_sq (q i : QueueId) (r : CqRecord) : (s.appendRecord q r).sq i = s.sq i := by
  simp [State.appendRecord]
@[simp] theorem State.appendRecord_slot (q : QueueId) (r : CqRecord) (k : SlotId) : (s.appendRecord q r).slot k = s.slot k := by
  simp [State.appendRecord]

theorem State.appendRecord_cq (q i : QueueId) (r : CqRecord) :
    (s.appendRecord q r).cq i = if i = q then { s.cq q with list := (s.cq q).list ++ [r] } else s.cq i := by
  simp [State.appendRecord, State.withCq_cq]

/-- A CQ after it has taken or discarded the completion of a command (R144). -/
def CqContext.afterCompletion (x : CqContext) (r : CqRecord) : CqContext :=
  { x with reserved := x.reserved - 1, list := if x.state = .opened then x.list ++ [r] else x.list }

variable {s}

/-- The end of a WORKING command changes its slot, its CQ and the port (R107, R144). -/
theorem State.finishSlot_of_working {k : SlotId} {w : Working} (status : Status) (detail : Nat) (h : s.slot k = .working w) :
    s.finishSlot k status detail =
      ((s.withSlot k .free).withCq w.cq
        ((s.cq w.cq).afterCompletion (.commandDone w.tag w.sq (s.sq w.sq).head status detail))).withPort
          (s.finishSlot k status detail).port := by
  unfold State.finishSlot
  rw [h]
  dsimp only
  unfold State.takeCompletion CqContext.afterCompletion
  dsimp only
  by_cases opened : (s.cq w.cq).state = .opened
  · rw [if_pos opened, if_pos (by simp [opened])]
    obtain ⟨p, e⟩ := State.handCqWrite_frame ((s.withCq w.cq { s.cq w.cq with reserved := (s.cq w.cq).reserved - 1 }).withCq w.cq
      { (s.cq w.cq) with
        reserved := (s.cq w.cq).reserved - 1,
        list := (s.cq w.cq).list ++ [.commandDone w.tag w.sq (s.sq w.sq).head status detail] }) w.cq
    unfold State.appendRecord
    rw [State.withCq_cq_self, e]
    simp [State.withSlot, State.withCq, State.withPort]
  · rw [if_neg opened, if_neg (by simpa using opened)]
    rfl

theorem State.finishSlot_of_not_working {k : SlotId} (status : Status) (detail : Nat) (h : ∀ w, s.slot k ≠ .working w) :
    s.finishSlot k status detail = s := by
  unfold State.finishSlot
  split
  · rename_i w e
    exact absurd e (h w)
  all_goals rfl

/-! ### The bound of the begun set (R160) -/

theorem Move.portBounded {s t : State} (m : Move s t) (h : s.PortBounded) : t.PortBounded := by
  have erased (r : Requester) : (s.dropBegun r).port.begun.length ≤ 4 :=
    le_trans List.length_eraseP_le h
  unfold State.PortBounded at h ⊢
  cases m with
  | append | handWrite | finish | hand => simpa using h
  | drop r _ => exact erased r
  | discardOf r => simpa [Port.discardOf] using h
  | endDiscarded r =>
    unfold State.endDiscarded
    rw [State.endHaltIfDone_port]
    exact erased r
  | begin => exact s.beginTransaction_bound h
  | takeRecord f => exact erased (.fetch f.sq)
  | failFetch f =>
    unfold State.freeFetchSlot
    split <;> exact erased (.fetch f.sq)
  | startFetch => simpa [State.startFetchFrom] using h
  | halt => simpa [State.beginHalt, Port.atHalt] using h
  | haltEnd | reset => exact Nat.zero_le 4
  | choice | pin | channel | cancels | closeSq | closingSq | openSq | post | openCq | closeCq | wrote | release | breakCq
  | vectors | windows | engine | enable => exact h

/-! ### The windows over the rings (R168) -/

/-- An OPEN queue of `x` is an OPEN queue of `y` with the same ring. -/
structure SameRing (x y : SqContext) : Prop where
  state : x.state = .opened → y.state = .opened
  base : x.state = .opened → x.base = y.base
  size : x.state = .opened → x.size = y.size

structure SameCqRing (x y : CqContext) : Prop where
  state : x.state = .opened → y.state = .opened
  base : x.state = .opened → x.base = y.base
  size : x.state = .opened → x.size = y.size

/-- With the windows as they were, rings that stay or close are still covered. -/
theorem State.RingsInWindows.of_same {t : State} (h : s.RingsInWindows) (windows : t.windows = s.windows)
    (sq : ∀ q, q ≠ 0 → SameRing (t.sq q) (s.sq q)) (cq : ∀ q, q ≠ 0 → SameCqRing (t.cq q) (s.cq q)) : t.RingsInWindows := by
  intro q io
  obtain ⟨reads, writes⟩ := h q io
  rw [windows]
  refine ⟨fun opened => ?_, fun opened => ?_⟩
  · rw [(sq q io).base opened, (sq q io).size opened]
    exact reads ((sq q io).state opened)
  · rw [(cq q io).base opened, (cq q io).size opened]
    exact writes ((cq q io).state opened)

theorem SameRing.of_eq {x y : SqContext} (state : x.state = y.state) (base : x.base = y.base) (size : x.size = y.size) :
    SameRing x y := ⟨state.symm.trans, fun _ => base, fun _ => size⟩

theorem SameCqRing.of_eq {x y : CqContext} (state : x.state = y.state) (base : x.base = y.base) (size : x.size = y.size) :
    SameCqRing x y := ⟨state.symm.trans, fun _ => base, fun _ => size⟩

theorem SameRing.of_not_opened {x y : SqContext} (h : x.state ≠ .opened) : SameRing x y :=
  ⟨fun e => absurd e h, fun e => absurd e h, fun e => absurd e h⟩

theorem SameCqRing.of_not_opened {x y : CqContext} (h : x.state ≠ .opened) : SameCqRing x y :=
  ⟨fun e => absurd e h, fun e => absurd e h, fun e => absurd e h⟩

theorem State.RingsInWindows.withSq (h : s.RingsInWindows) {q : QueueId} {x : SqContext}
    (hx : SameRing x (s.sq q) ∨ inOneWindow s.windows .read x.base.toNat (32 * x.size) = true) :
    (s.withSq q x).RingsInWindows := by
  intro i io
  obtain ⟨reads, writes⟩ := h i io
  refine ⟨fun opened => ?_, writes⟩
  rw [State.withSq_sq] at opened ⊢
  split at opened
  · subst i
    rw [if_pos rfl]
    rcases hx with same | covered
    · rw [same.base opened, same.size opened]
      exact reads (same.state opened)
    · exact covered
  · rename_i other
    rw [if_neg other]
    exact reads opened

theorem State.RingsInWindows.withCq (h : s.RingsInWindows) {q : QueueId} {x : CqContext}
    (hx : SameCqRing x (s.cq q) ∨ inOneWindow s.windows .write x.base.toNat (16 * x.size) = true) :
    (s.withCq q x).RingsInWindows := by
  intro i io
  obtain ⟨reads, writes⟩ := h i io
  refine ⟨reads, fun opened => ?_⟩
  rw [State.withCq_cq] at opened ⊢
  split at opened
  · subst i
    rw [if_pos rfl]
    rcases hx with same | covered
    · rw [same.base opened, same.size opened]
      exact writes (same.state opened)
    · exact covered
  · rename_i other
    rw [if_neg other]
    exact writes opened

/-- Check 3 of SET_WINDOW is the invariant on the table it would leave. -/
theorem State.ringsCovered_iff (s : State) (ws : Table 4 Window) :
    s.ringsCovered ws = true ↔ State.RingsInWindows { s with windows := ws } := by
  unfold State.ringsCovered State.RingsInWindows
  simp only [List.all_eq_true, List.mem_finRange, forall_const, Bool.or_eq_true, Bool.and_eq_true, beq_iff_eq, bne_iff_ne,
    or_iff_not_imp_left, ne_eq, not_not]
  rfl

/-- No I/O queue is OPEN after a reset or a halt. -/
theorem resetCqs_state (q : QueueId) : (Table.read resetCqs q).state = .closed := by
  unfold resetCqs
  rw [Table.read_write]
  split
  · rfl
  · rw [Table.read_fill]
    rfl

theorem State.endHalt_rings (s : State) : s.endHalt.RingsInWindows := by
  have sq (q : QueueId) : (s.endHalt.sq q).state = .closed := congrArg SqContext.state (Table.read_fill _ q)
  have cq (q : QueueId) : (s.endHalt.cq q).state = .closed := resetCqs_state q
  intro q _
  rw [sq, cq]
  exact ⟨nofun, nofun⟩

theorem State.resetBlocks_rings (s : State) (kind : LastReset) : (s.resetBlocks kind).RingsInWindows := by
  have sq (q : QueueId) : ((s.resetBlocks kind).sq q).state = .closed := congrArg SqContext.state (Table.read_fill _ q)
  have cq (q : QueueId) : ((s.resetBlocks kind).cq q).state = .closed := resetCqs_state q
  intro q _
  rw [sq, cq]
  exact ⟨nofun, nofun⟩

theorem State.endHaltIfDone_rings (h : s.RingsInWindows) : s.endHaltIfDone.RingsInWindows := by
  unfold State.endHaltIfDone
  split
  · exact s.endHalt_rings
  · exact h

theorem SqContext.forgetCloser_sameRing (x : SqContext) : SameRing x.forgetCloser x := by
  unfold SqContext.forgetCloser
  split
  · exact .of_not_opened nofun
  all_goals exact .of_eq rfl rfl rfl

theorem State.discardCommands_rings (h : s.RingsInWindows) : s.discardCommands.RingsInWindows := by
  refine h.of_same rfl (fun q _ => ?_) (fun q _ => ?_)
  · show SameRing (Table.read (Table.map _ _) q) _
    rw [Table.read_map]
    exact SqContext.forgetCloser_sameRing _
  · show SameCqRing (Table.read (Table.map _ _) q) _
    rw [Table.read_map]
    exact .of_eq rfl rfl rfl

theorem Move.ringsInWindows {s t : State} (m : Move s t) (h : s.RingsInWindows) : t.RingsInWindows := by
  cases m with
  | handWrite q =>
    obtain ⟨p, e⟩ := s.handCqWrite_frame q
    rw [e]
    exact h
  | append q r =>
    obtain ⟨p, e⟩ := State.handCqWrite_frame (s.withCq q { s.cq q with list := (s.cq q).list ++ [r] }) q
    unfold State.appendRecord
    rw [e]
    exact h.withCq (.inl (.of_eq rfl rfl rfl))
  | endDiscarded r => exact State.endHaltIfDone_rings h
  | begin =>
    obtain ⟨p, e⟩ := s.beginTransaction_frame
    rw [e]
    exact h
  | finish k status detail =>
    by_cases working : ∃ w, s.slot k = .working w
    · obtain ⟨w, hw⟩ := working
      rw [State.finishSlot_of_working status detail hw]
      exact State.RingsInWindows.withCq (s := s.withSlot k .free) h (.inl (.of_eq rfl rfl rfl))
    · rw [State.finishSlot_of_not_working status detail (not_exists.1 working)]
      exact h
  | closeSq q _ => exact h.withSq (.inl (.of_not_opened nofun))
  | closingSq q k _ => exact h.withSq (.inl (.of_not_opened nofun))
  | openSq q b x _ _ _ _ _ _ covered => exact h.withSq (.inr covered)
  | post q tail opened _ => exact h.withSq (.inl (.of_eq rfl rfl rfl))
  | takeRecord f code tag channel _ => exact h.withSq (.inl (.of_eq rfl rfl rfl))
  | failFetch f _ =>
    have broken := h.withSq (q := f.sq) (x := { s.sq f.sq with state := .broken }) (.inl (.of_not_opened nofun))
    unfold State.freeFetchSlot
    split
    · exact broken.withCq (.inl (.of_eq rfl rfl rfl))
    all_goals exact broken
  | startFetch q b k _ _ _ _ =>
    have reserved := h.withCq (q := b) (x := { s.cq b with reserved := (s.cq b).reserved + 1 }) (.inl (.of_eq rfl rfl rfl))
    unfold State.startFetchFrom
    obtain ⟨l, e⟩ := State.serve_frame
      ((s.withSlot k (.fetching s.nextAge q b)).withCq b { s.cq b with reserved := (s.cq b).reserved + 1 }) q
    dsimp only
    rw [e]
    exact reserved
  | openCq q x _ _ _ _ _ _ _ covered => exact h.withCq (.inr covered)
  | closeCq q _ => exact h.withCq (.inl (.of_not_opened nofun))
  | wrote q _ => exact h.withCq (.inl (.of_eq rfl rfl rfl))
  | release q head _ => exact h.withCq (.inl (.of_eq rfl rfl rfl))
  | breakCq q _ =>
    exact State.RingsInWindows.withCq (x := { s.cq q with state := .broken, list := [] }) h (.inl (.of_not_opened nofun))
  | windows ws covered => exact (s.ringsCovered_iff ws).1 covered
  | enable _ _ =>
    refine h.of_same rfl (fun q io => ?_) (fun q io => ?_)
    · show SameRing (Table.read (Table.write _ _ _) q) _
      rw [Table.read_write_ne _ _ _ _ io]
      exact .of_eq rfl rfl rfl
    · show SameCqRing (Table.read (Table.write _ _ _) q) _
      rw [Table.read_write_ne _ _ _ _ io]
      exact .of_eq rfl rfl rfl
  | halt _ =>
    refine State.endHaltIfDone_rings (State.RingsInWindows.of_same (State.discardCommands_rings h) rfl (fun q _ => .of_eq rfl rfl rfl) (fun q _ => ?_))
    show SameCqRing (Table.read (Vector.ofFn _) q) (Table.read (Table.map _ _) q)
    rw [Table.read_map]
    unfold Table.read
    rw [Vector.getElem_ofFn]
    exact .of_eq rfl rfl rfl
  | haltEnd _ => exact State.endHalt_rings _
  | reset kind => exact s.resetBlocks_rings kind
  | choice | pin | channel | hand | drop | discardOf | cancels | vectors | engine => exact h

/-! ### The statement -/

/-- Settles O5: every move and the entry into FATAL keep the bound of the begun set and the windows over the rings. -/
theorem stepKeepsPortAndRings : Obligations.StepKeepsPortAndRings := by
  refine fun s t e => ⟨fun h => ?_, fun h => ?_⟩
  · refine step_keeps (P := State.PortBounded) (fun _ _ h => h) (fun _ _ m => m.portBounded) (fun s cause _ h => ?_) h e
    refine enterFatal_keeps (fun _ _ m => m.portBounded) ?_
    simpa [State.PortBounded, State.fatalStart, Port.atFatal] using h
  · refine step_keeps (P := State.RingsInWindows) (fun _ _ h => h) (fun _ _ m => m.ringsInWindows) (fun s cause _ h => ?_) h e
    exact enterFatal_keeps (fun _ _ m => m.ringsInWindows) (State.discardCommands_rings h)

end Sys2Proof.Machine
end

section
/-! The accounting of the completion queues and of the reservations of the slots (R143), kept by every move. -/

namespace Sys2Proof.Machine

variable {s t : State}

/-! ### Ring indices -/

/-- Going round between two indices of a ring, without the modulus. -/
theorem goRound_eq {i j size : Nat} (hi : i < size) (hj : j < size) :
    goRound i j size = if i ≤ j then j - i else j + size - i := by
  unfold goRound
  split
  · rw [show j + size - i = j - i + size by omega, Nat.add_mod_right, Nat.mod_eq_of_lt (by omega)]
  · exact Nat.mod_eq_of_lt (by omega)

theorem CqContext.occupied_eq (x : CqContext) : x.occupied = goRound x.head x.tail x.size + x.list.length := rfl

theorem CqContext.hasRoom_iff (x : CqContext) :
    x.hasRoom = true ↔ x.reserved < x.size - 1 - (goRound x.head x.tail x.size + x.list.length) :=
  decide_eq_true_iff (p := x.reserved < x.free)

/-- One more record written moves the tail one on. -/
theorem goRound_succ_le {i j size : Nat} (hi : i < size) (hj : j < size) :
    goRound i ((j + 1) % size) size ≤ goRound i j size + 1 := by
  have size_pos : 0 < size := by omega
  rw [goRound_eq hi hj, goRound_eq hi (Nat.mod_lt _ size_pos)]
  rcases Nat.lt_or_ge (j + 1) size with inside | last
  · rw [Nat.mod_eq_of_lt inside]
    split <;> split <;> omega
  · obtain rfl : size = j + 1 := by omega
    rw [Nat.mod_self]
    split <;> split <;> omega

/-- A head that stays before the tail leaves no more entries behind it. -/
theorem goRound_le_of_le {i k j size : Nat} (hi : i < size) (hk : k < size) (hj : j < size)
    (before : goRound i k size ≤ goRound i j size) : goRound k j size ≤ goRound i j size := by
  rw [goRound_eq hi hk, goRound_eq hi hj] at before
  rw [goRound_eq hk hj, goRound_eq hi hj]
  split at before <;> split at before <;> split <;> omega

/-! ### Counting the reservations -/

/-- Two predicates that differ at one slot alone count that slot apart. -/
theorem countP_finRange_of_ne {f g : SlotId → Bool} (k : SlotId) (h : ∀ j, j ≠ k → f j = g j) :
    (List.finRange 16).countP f + (g k).toNat = (List.finRange 16).countP g + (f k).toNat := by
  have split_at (p : SlotId → Bool) :
      (List.finRange 16).countP p = ((List.finRange 16).erase k).countP p + (p k).toNat := by
    rw [(List.perm_cons_erase (List.mem_finRange k)).countP_eq p, List.countP_cons]
    cases p k <;> rfl
  have rest : ((List.finRange 16).erase k).countP f = ((List.finRange 16).erase k).countP g :=
    List.countP_congr fun j hj => by
      rw [h j fun same => (List.nodup_finRange 16).not_mem_erase (same ▸ hj)]
  rw [split_at f, split_at g, rest]
  omega

theorem State.reservations_withSlot (s : State) (k : SlotId) (y : Slot) (q : QueueId) :
    (s.withSlot k y).reservations q + ((s.slot k).reservedIn == some q).toNat =
      s.reservations q + (y.reservedIn == some q).toNat := by
  have counted := countP_finRange_of_ne (f := fun j => ((s.withSlot k y).slot j).reservedIn == some q)
    (g := fun j => (s.slot j).reservedIn == some q) k (fun j other => by rw [State.withSlot_slot_ne _ _ _ _ other])
  rw [State.withSlot_slot_self] at counted
  exact counted

theorem State.reservations_eq_zero {q : QueueId} (h : ∀ k, (s.slot k).reservedIn ≠ some q) : s.reservations q = 0 := by
  simpa [State.reservations] using h

theorem State.reservations_of_free (h : ∀ k, s.slot k = .free) (q : QueueId) : s.reservations q = 0 :=
  State.reservations_eq_zero fun k => by rw [h k]; nofun

theorem State.RoomHolds.reserved_pos (h : s.RoomHolds) {k : SlotId} {q : QueueId} (holds : (s.slot k).reservedIn = some q) :
    0 < (s.cq q).reserved := by
  rw [h.reserved q]
  exact List.countP_pos_iff.2 ⟨k, List.mem_finRange k, by simp [holds]⟩

/-- No slot holds a reservation in a CLOSED CQ. -/
theorem State.RoomHolds.reserved_of_closed (h : s.RoomHolds) {q : QueueId} (closed : (s.cq q).state = .closed) :
    (s.cq q).reserved = 0 := by
  rw [h.reserved q]
  refine State.reservations_eq_zero fun k holds => ?_
  obtain ⟨i, uses⟩ : ∃ i, (s.slot k).sqId = some i := by
    cases hk : s.slot k with
    | free => rw [hk] at holds; cases holds
    | fetching | working => exact ⟨_, rfl⟩
  obtain ⟨in_use, bound⟩ := h.slotBound k i q uses holds
  obtain ⟨b, same, not_closed⟩ := h.boundOpen i in_use
  rw [bound] at same
  cases same
  exact not_closed closed

/-! ### Changes of one queue or one slot -/

theorem State.withCq_self (s : State) (q : QueueId) : s.withCq q (s.cq q) = s :=
  congrArg (fun x => { s with cqs := x }) (Table.write_read_self _ _)

/-- The values of a CQ agree with the accounting: an OPEN queue's accepted and reserved records fit (R143). -/
def CqContext.Fits (x : CqContext) : Prop :=
  x.state = .opened → x.head < x.size ∧ x.tail < x.size ∧ x.occupied + x.reserved ≤ x.size - 1

theorem CqContext.Fits.of_not_opened {x : CqContext} (h : x.state ≠ .opened) : x.Fits := fun e => absurd e h

theorem State.RoomHolds.withCq (h : s.RoomHolds) {q : QueueId} {x : CqContext} (reserved : x.reserved = (s.cq q).reserved)
    (bound : x.state = .closed → (s.cq q).state = .closed ∨ s.isBound q = false) (fits : x.Fits) : (s.withCq q x).RoomHolds where
  reserved i := by
    rw [State.withCq_cq]
    split
    · rename_i same
      rw [same, reserved]
      exact h.reserved q
    · exact h.reserved i
  slotBound := h.slotBound
  boundOpen i in_use := by
    obtain ⟨b, bound_to, not_closed⟩ := h.boundOpen i in_use
    refine ⟨b, bound_to, ?_⟩
    rw [State.withCq_cq]
    split
    · rename_i same
      subst same
      intro closed
      rcases bound closed with was_closed | unbound
      · exact not_closed was_closed
      · simp only [State.isBound, List.any_eq_false, List.mem_finRange, forall_const, Bool.and_eq_true, bne_iff_ne, ne_eq,
          beq_iff_eq] at unbound
        exact unbound i ⟨in_use, bound_to⟩
    · exact not_closed
  room i := by
    rw [State.withCq_cq]
    split
    · exact fits
    · exact h.room i
  indices := h.indices
  fetchSlot := h.fetchSlot
  stopped := h.stopped

theorem State.RoomHolds.withSq (h : s.RoomHolds) {q : QueueId} {x : SqContext}
    (slots : ∀ k, (s.slot k).sqId = some q → x.state ≠ .closed ∧ x.boundCq = (s.sq q).boundCq)
    (bound : x.state ≠ .closed → ∃ b, x.boundCq = some b ∧ (s.cq b).state ≠ .closed)
    (indices : x.state = .opened → x.head < x.size ∧ x.tail < x.size) : (s.withSq q x).RoomHolds where
  reserved := h.reserved
  slotBound k i b uses holds := by
    obtain ⟨in_use, bound_to⟩ := h.slotBound k i b uses holds
    rw [State.withSq_sq]
    split
    · rename_i same
      subst same
      obtain ⟨still, same_cq⟩ := slots k uses
      exact ⟨still, same_cq.trans bound_to⟩
    · exact ⟨in_use, bound_to⟩
  boundOpen i := by
    rw [State.withSq_sq]
    split
    · exact bound
    · exact h.boundOpen i
  room := h.room
  indices i := by
    rw [State.withSq_sq]
    split
    · exact indices
    · exact h.indices i
  fetchSlot := h.fetchSlot
  stopped := h.stopped

/-- A change that keeps a queue in use and bound as it was. -/
theorem State.RoomHolds.withSq_bound (h : s.RoomHolds) {q : QueueId} {x : SqContext} (was : (s.sq q).state ≠ .closed)
    (state : x.state ≠ .closed) (same : x.boundCq = (s.sq q).boundCq)
    (indices : x.state = .opened → x.head < x.size ∧ x.tail < x.size) : (s.withSq q x).RoomHolds := by
  refine h.withSq (fun _ _ => ⟨state, same⟩) (fun _ => ?_) indices
  rw [same]
  exact h.boundOpen q was

/-- A slot takes or frees its reservation in a CQ, whose accounting follows, with the fetch record of that event. -/
theorem State.RoomHolds.withSlotCq (h : s.RoomHolds) {k : SlotId} {y : Slot} {q : QueueId} {x : CqContext} {g : Option FetchRecord}
    (reserved : x.reserved + ((s.slot k).reservedIn == some q).toNat = (s.cq q).reserved + (y.reservedIn == some q).toNat)
    (others : ∀ i, i ≠ q → (s.slot k).reservedIn ≠ some i ∧ y.reservedIn ≠ some i)
    (slot : ∀ i b, y.sqId = some i → y.reservedIn = some b → (s.sq i).state ≠ .closed ∧ (s.sq i).boundCq = some b)
    (state : x.state = (s.cq q).state) (fits : x.Fits)
    (fetch : ∀ f, g = some f → ∃ age b, (s.withSlot k y).slot f.slot = .fetching age f.sq b)
    (stopped : s.engine.state ≠ .running → g = none ∧ y = .free) :
    ({ (s.withSlot k y).withCq q x with fetch := g } : State).RoomHolds where
  reserved i := by
    show (((s.withSlot k y).withCq q x).cq i).reserved = (s.withSlot k y).reservations i
    have counted := s.reservations_withSlot k y i
    rw [← h.reserved i] at counted
    rw [State.withCq_cq]
    split
    · rename_i same
      subst same
      omega
    · rename_i other
      obtain ⟨not_old, not_new⟩ := others i other
      rw [beq_false_of_ne not_old, beq_false_of_ne not_new] at counted
      show (s.cq i).reserved = _
      omega
  slotBound j i b uses holds := by
    change ((s.withSlot k y).slot j).sqId = some i at uses
    change ((s.withSlot k y).slot j).reservedIn = some b at holds
    rw [State.withSlot_slot] at uses holds
    split at uses
    · rename_i same
      rw [if_pos same] at holds
      exact slot i b uses holds
    · rename_i other
      rw [if_neg other] at holds
      exact h.slotBound j i b uses holds
  boundOpen i in_use := by
    obtain ⟨b, bound_to, not_closed⟩ := h.boundOpen i in_use
    refine ⟨b, bound_to, ?_⟩
    show (((s.withSlot k y).withCq q x).cq b).state ≠ _
    rw [State.withCq_cq]
    split
    · rename_i same
      subst same
      rw [state]
      exact not_closed
    · exact not_closed
  room i := by
    show CqContext.Fits (((s.withSlot k y).withCq q x).cq i)
    rw [State.withCq_cq]
    split
    · exact fits
    · exact h.room i
  indices := h.indices
  fetchSlot := fetch
  stopped not_running := by
    obtain ⟨no_fetch, free⟩ := stopped not_running
    refine ⟨no_fetch, fun j => ?_⟩
    show (s.withSlot k y).slot j = .free
    rw [State.withSlot_slot]
    split
    · exact free
    · exact (h.stopped not_running).2 j

/-! ### The ends of commands and of a halt -/

/-- With every queue CLOSED and every slot FREE nothing is reserved. -/
theorem State.RoomHolds.of_closed (free : ∀ k, t.slot k = .free) (fetch : t.fetch = none) (sq : ∀ q, (t.sq q).state = .closed)
    (cq : ∀ q, (t.cq q).state = .closed ∧ (t.cq q).reserved = 0) : t.RoomHolds where
  reserved q := by rw [(cq q).2, State.reservations_of_free free]
  slotBound k i b uses := by rw [free k] at uses; cases uses
  boundOpen i in_use := absurd (sq i) in_use
  room q opened := by rw [(cq q).1] at opened; cases opened
  indices q opened := by rw [sq q] at opened; cases opened
  fetchSlot f e := by rw [fetch] at e; cases e
  stopped _ := ⟨fetch, free⟩

theorem resetCqs_reserved (q : QueueId) : (Table.read resetCqs q).reserved = 0 := by
  unfold resetCqs
  rw [Table.read_write]
  split
  · rfl
  · rw [Table.read_fill]
    rfl

theorem State.endHalt_room (free : ∀ k, s.slot k = .free) : s.endHalt.RoomHolds :=
  .of_closed free rfl (fun q => congrArg SqContext.state (Table.read_fill _ q)) fun q => ⟨resetCqs_state q, resetCqs_reserved q⟩

theorem State.endHaltIfDone_room (h : s.RoomHolds) : s.endHaltIfDone.RoomHolds := by
  unfold State.endHaltIfDone
  split
  · rename_i last
    have halting : s.engine.state = .halting := by simpa using (Bool.and_eq_true_iff.1 last).1
    exact State.endHalt_room (h.stopped (by rw [halting]; exact nofun)).2
  · exact h

theorem State.resetBlocks_room (s : State) (kind : LastReset) : (s.resetBlocks kind).RoomHolds :=
  .of_closed (fun k => Table.read_fill _ k) rfl (fun q => congrArg SqContext.state (Table.read_fill _ q)) fun q =>
    ⟨resetCqs_state q, resetCqs_reserved q⟩

/-- Forgetting the CLOSE_SQ that waits changes nothing but that. -/
theorem SqContext.forgetCloser_eq (x : SqContext) : ∃ st, x.forgetCloser = { x with state := st } ∧
    (st = .closed ↔ x.state = .closed) ∧ (st = .opened ↔ x.state = .opened) := by
  unfold SqContext.forgetCloser
  split
  · rename_i e
    exact ⟨_, rfl, by simp [e], by simp [e]⟩
  all_goals exact ⟨x.state, rfl, Iff.rfl, Iff.rfl⟩

/-- With the commands discarded and the reservations cleared, lists at most as long still fit. -/
theorem State.RoomHolds.discarded (h : s.RoomHolds) (free : ∀ k, t.slot k = .free) (fetch : t.fetch = none)
    (sq : ∀ q, t.sq q = (s.sq q).forgetCloser)
    (cq : ∀ q, ∃ l, l.length ≤ (s.cq q).list.length ∧ t.cq q = { s.cq q with reserved := 0, list := l }) : t.RoomHolds where
  reserved q := by
    obtain ⟨l, _, e⟩ := cq q
    rw [e, State.reservations_of_free free]
  slotBound k i b uses := by rw [free k] at uses; cases uses
  boundOpen i in_use := by
    obtain ⟨st, e, closed, _⟩ := (s.sq i).forgetCloser_eq
    rw [sq i, e] at in_use ⊢
    obtain ⟨b, bound_to, not_closed⟩ := h.boundOpen i fun was => in_use (closed.2 was)
    obtain ⟨l, _, e'⟩ := cq b
    exact ⟨b, bound_to, by rw [e']; exact not_closed⟩
  room q := by
    obtain ⟨l, shorter, e⟩ := cq q
    rw [e]
    intro opened
    obtain ⟨head, tail, fits⟩ := h.room q opened
    refine ⟨head, tail, ?_⟩
    rw [CqContext.occupied_eq] at fits ⊢
    show goRound _ _ _ + l.length + 0 ≤ _
    dsimp only
    omega
  indices q := by
    obtain ⟨st, e, _, opened⟩ := (s.sq q).forgetCloser_eq
    rw [sq q, e]
    exact fun was => h.indices q (opened.1 was)
  fetchSlot f e := by rw [fetch] at e; cases e
  stopped _ := ⟨fetch, free⟩

theorem State.discardCommands_sq (s : State) (q : QueueId) : s.discardCommands.sq q = (s.sq q).forgetCloser :=
  Table.read_map _ _ _

theorem State.discardCommands_cq (s : State) (q : QueueId) : s.discardCommands.cq q = { s.cq q with reserved := 0 } :=
  Table.read_map _ _ _

theorem State.discardCommands_slot (s : State) (k : SlotId) : s.discardCommands.slot k = .free := Table.read_fill _ k

theorem State.fatalStart_room (h : s.RoomHolds) (cause : EngineCause) : (s.fatalStart cause).RoomHolds :=
  h.discarded (fun k => s.discardCommands_slot k) rfl (fun q => s.discardCommands_sq q)
    fun q => ⟨(s.cq q).list, le_rfl, s.discardCommands_cq q⟩

/-- The state in which a halt that does not end at once stands after its start (R176). -/
def State.haltStart (s : State) : State :=
  { s.discardCommands with
    engine := { s.engine with state := .halting },
    channels := s.channels.map Channel.atHalt,
    cqs := Vector.ofFn fun q => (s.cq q).atHalt (s.port.begun.any fun b => b.requester == .cqWrite q),
    vectors := { s.vectors with timers := Table.fill 8 none },
    port := s.port.atHalt }

theorem State.beginHalt_eq (s : State) : s.beginHalt = s.haltStart.endHaltIfDone := rfl

theorem State.haltStart_cq (s : State) (q : QueueId) :
    s.haltStart.cq q = (s.cq q).atHalt (s.port.begun.any fun b => b.requester == .cqWrite q) := by
  show Table.read (Vector.ofFn _) q = _
  unfold Table.read
  rw [Vector.getElem_ofFn]

theorem State.haltStart_room (h : s.RoomHolds) : s.haltStart.RoomHolds := by
  refine h.discarded (fun k => s.discardCommands_slot k) rfl (fun q => s.discardCommands_sq q) fun q => ⟨_, ?_, s.haltStart_cq q⟩
  split
  · rw [List.length_take]
    omega
  · exact Nat.zero_le _

/-! ### Every move -/

theorem CqContext.Fits.append {x : CqContext} (h : x.Fits) (opened : x.state = .opened) (room : x.hasRoom = true) (r : CqRecord) :
    CqContext.Fits { x with list := x.list ++ [r] } := by
  intro _
  obtain ⟨head, tail, fits⟩ := h opened
  refine ⟨head, tail, ?_⟩
  rw [CqContext.hasRoom_iff] at room
  rw [CqContext.occupied_eq] at fits ⊢
  simp only [List.length_append, List.length_singleton]
  omega

theorem CqContext.Fits.reserve {x : CqContext} (h : x.Fits) (opened : x.state = .opened) (room : x.hasRoom = true) :
    CqContext.Fits { x with reserved := x.reserved + 1 } := by
  intro _
  obtain ⟨head, tail, fits⟩ := h opened
  refine ⟨head, tail, ?_⟩
  rw [CqContext.hasRoom_iff] at room
  rw [CqContext.occupied_eq] at fits ⊢
  dsimp only
  omega

theorem CqContext.Fits.afterCompletion {x : CqContext} (h : x.Fits) (held : 0 < x.reserved) (r : CqRecord) :
    (x.afterCompletion r).Fits := by
  intro opened
  change x.state = .opened at opened
  obtain ⟨head, tail, fits⟩ := h opened
  refine ⟨head, tail, ?_⟩
  rw [CqContext.occupied_eq] at fits ⊢
  simp only [CqContext.afterCompletion, if_pos opened, List.length_append, List.length_singleton]
  omega

theorem CqContext.Fits.unreserve {x : CqContext} (h : x.Fits) : CqContext.Fits { x with reserved := x.reserved - 1 } := by
  intro opened
  obtain ⟨head, tail, fits⟩ := h opened
  refine ⟨head, tail, ?_⟩
  rw [CqContext.occupied_eq] at fits ⊢
  dsimp only
  omega

theorem CqContext.Fits.afterWrite {x : CqContext} (h : x.Fits) (some_record : x.list ≠ []) : x.afterWrite.Fits := by
  intro opened
  obtain ⟨head, tail, fits⟩ := h opened
  refine ⟨head, Nat.mod_lt _ (by omega), ?_⟩
  have shorter : x.list.tail.length + 1 = x.list.length := by
    rw [List.length_tail]
    have := List.length_pos_iff.2 some_record
    omega
  have moved := goRound_succ_le head tail
  rw [CqContext.occupied_eq] at fits ⊢
  simp only [CqContext.afterWrite]
  omega

theorem CqContext.Fits.release {x : CqContext} (h : x.Fits) {head : Nat} (inside : head < x.size)
    (before : goRound x.head head x.size ≤ goRound x.head x.tail x.size) : CqContext.Fits { x with head := head } := by
  intro opened
  obtain ⟨old, tail, fits⟩ := h opened
  refine ⟨inside, tail, ?_⟩
  have fewer := goRound_le_of_le old inside tail before
  rw [CqContext.occupied_eq] at fits ⊢
  dsimp only
  omega

theorem State.releaseAccepted_iff (s : State) (q : QueueId) (head : Nat) :
    s.releaseAccepted q head = true ↔ s.engine.state ≠ .halting ∧ (s.cq q).state = .opened ∧ head < (s.cq q).size ∧
      goRound (s.cq q).head head (s.cq q).size ≤ goRound (s.cq q).head (s.cq q).tail (s.cq q).size := by
  simp [State.releaseAccepted, and_assoc]

theorem State.accepts_iff (s : State) (q : QueueId) :
    s.accepts q = true ↔ s.engine.state ≠ .halting ∧ (s.cq q).state = .opened ∧ (s.cq q).hasRoom = true := by
  simp [State.accepts, and_assoc]

theorem Slot.toWorking_sqId (y : Slot) (code : CommandCode) (tag : BitVec 16) (channel : Byte) :
    (y.toWorking code tag channel).sqId = y.sqId ∧ (y.toWorking code tag channel).reservedIn = y.reservedIn := by
  cases y <;> exact ⟨rfl, rfl⟩

/-- A WORKING or FETCHING slot's command ends and its reservation with it. -/
theorem State.RoomHolds.freed (h : s.RoomHolds) {k : SlotId} {q : QueueId} {x : CqContext} {g : Option FetchRecord}
    (held : (s.slot k).reservedIn = some q) (reserved : x.reserved = (s.cq q).reserved - 1) (state : x.state = (s.cq q).state)
    (fits : x.Fits) (fetch : ∀ f, g = some f → s.fetch = some f ∧ f.slot ≠ k) :
    ({ (s.withSlot k .free).withCq q x with fetch := g } : State).RoomHolds := by
  have pos := h.reserved_pos held
  refine h.withSlotCq ?_ (fun i other => ⟨fun e => other ?_, nofun⟩) nofun state fits (fun f e => ?_) (fun not_running => ?_)
  · rw [held, reserved]
    simp only [BEq.rfl, Bool.toNat_true, Slot.reservedIn]
    show (s.cq q).reserved - 1 + 1 = (s.cq q).reserved + 0
    omega
  · rw [held] at e
    cases e
    rfl
  · obtain ⟨was, other⟩ := fetch f e
    rw [State.withSlot_slot_ne _ _ _ _ other]
    exact h.fetchSlot f was
  · have := (h.stopped not_running).2 k
    rw [this] at held
    cases held

/-- The return of a fetch moves the head and keeps the reservation (R131). -/
theorem State.RoomHolds.takeRecord (h : s.RoomHolds) {f : FetchRecord} (code : CommandCode) (tag : BitVec 16) (channel : Byte)
    (returning : s.returning = some f) : (s.takeRecord f code tag channel).RoomHolds := by
  have fits (q : QueueId) : (s.cq q).Fits := h.room q
  obtain ⟨_, _, age, b, hslot⟩ := State.returning_eq_some returning
  have holds : (s.slot f.slot).reservedIn = some b := by rw [hslot]; rfl
  obtain ⟨in_use, bound⟩ := h.slotBound f.slot f.sq b (by rw [hslot]; rfl) holds
  have moved := h.withSq_bound (q := f.sq) (x := { s.sq f.sq with head := (f.index + 1) % (s.sq f.sq).size }) in_use in_use rfl
    fun opened => ⟨Nat.mod_lt _ (Nat.zero_lt_of_lt (h.indices f.sq opened).1), (h.indices f.sq opened).2⟩
  have running : ¬s.engine.state ≠ .running := fun stopped => by
    have free := (h.stopped stopped).2 f.slot
    rw [hslot] at free
    cases free
  have taken := moved.withSlotCq (k := f.slot) (y := (s.slot f.slot).toWorking code tag channel) (q := b) (x := s.cq b)
    (g := none) (by rw [Slot.toWorking_sqId _ _ _ _ |>.2]; rfl)
    (fun i other => by
      rw [(Slot.toWorking_sqId _ _ _ _).2]
      show (s.slot f.slot).reservedIn ≠ some i ∧ (s.slot f.slot).reservedIn ≠ some i
      rw [holds]
      exact ⟨fun e => other (by cases e; rfl), fun e => other (by cases e; rfl)⟩)
    (fun i c uses holds => by
      obtain ⟨sqId, reservedIn⟩ := Slot.toWorking_sqId (s.slot f.slot) code tag channel
      rw [sqId] at uses
      rw [reservedIn] at holds
      exact moved.slotBound f.slot i c uses holds)
    rfl (fits b) nofun (fun stopped => absurd stopped running)
  have same := State.withCq_self ((s.withSq f.sq { s.sq f.sq with head := (f.index + 1) % (s.sq f.sq).size }).withSlot f.slot
    ((s.slot f.slot).toWorking code tag channel)) b
  change State.withCq _ b (s.cq b) = _ at same
  rw [same] at taken
  exact { taken with }

/-- A failed fetch returns its reservation (R132). -/
theorem State.RoomHolds.failFetch (h : s.RoomHolds) {f : FetchRecord} (fetching : s.fetch = some f) :
    State.RoomHolds { ((s.dropBegun (.fetch f.sq)).withSq f.sq { s.sq f.sq with state := .broken }).freeFetchSlot f.slot with
      fetch := none } := by
  have fits (q : QueueId) : (s.cq q).Fits := h.room q
  obtain ⟨age, b, hslot⟩ := h.fetchSlot f fetching
  have holds : (s.slot f.slot).reservedIn = some b := by rw [hslot]; rfl
  obtain ⟨in_use, bound⟩ := h.slotBound f.slot f.sq b (by rw [hslot]; rfl) holds
  have broken := h.withSq_bound (q := f.sq) (x := { s.sq f.sq with state := .broken }) in_use nofun rfl nofun
  have freed := broken.freed (x := { s.cq b with reserved := (s.cq b).reserved - 1 }) (g := none) holds rfl rfl
    (fits b).unreserve nofun
  have split_slot : ((s.dropBegun (.fetch f.sq)).withSq f.sq { s.sq f.sq with state := .broken }).slot f.slot =
      .fetching age f.sq b := hslot
  unfold State.freeFetchSlot
  rw [split_slot]
  exact { freed with }

/-- A fetch reserves the room that made its queue eligible (R127, R130). -/
theorem State.RoomHolds.startFetchFrom (h : s.RoomHolds) {q b : QueueId} {k : SlotId} (idle : s.fetchIdle = true)
    (eligible : s.eligible q = true) (free : s.slot k = .free) (bound : (s.sq q).boundCq = some b) :
    (s.startFetchFrom q b k).RoomHolds := by
  have fits (q : QueueId) : (s.cq q).Fits := h.room q
  obtain ⟨opened, _, _, c, bound', cq_opened, room⟩ := (s.eligible_iff q).1 eligible
  obtain rfl : c = b := Option.some.inj (bound'.symm.trans bound)
  have started := h.withSlotCq (k := k) (y := .fetching s.nextAge q c) (q := c)
    (x := { s.cq c with reserved := (s.cq c).reserved + 1 }) (g := some { sq := q, index := (s.sq q).head, slot := k })
    (by rw [free]; simp [Slot.reservedIn])
    (fun i other => by
      rw [free]
      exact ⟨nofun, fun e => other (by cases e; rfl)⟩)
    (fun i d uses holds => by
      cases uses
      cases holds
      exact ⟨by rw [opened]; exact nofun, bound⟩)
    rfl ((fits c).reserve cq_opened (by simpa [CqContext.hasRoom] using room))
    (fun f e => by cases e; exact ⟨_, _, State.withSlot_slot_self _ _ _⟩)
    (fun stopped => by simp [State.fetchIdle, stopped] at idle)
  unfold State.startFetchFrom
  obtain ⟨l, e⟩ := State.serve_frame
    ((s.withSlot k (.fetching s.nextAge q c)).withCq c { s.cq c with reserved := (s.cq c).reserved + 1 }) q
  dsimp only
  rw [e]
  exact { started with }

/-- The enable opens SQ0 and CQ0 empty (R121, R140). -/
theorem State.RoomHolds.openAdmin (h : s.RoomHolds) (halted : s.engine.state = .halted) (valid : s.engine.adminValid = true) :
    s.openAdmin.RoomHolds := by
  obtain ⟨no_fetch, free⟩ := h.stopped (by rw [halted]; exact nofun)
  obtain ⟨size, _⟩ : 4 ≤ s.engine.adminSqSize.toNat ∧ 4 ≤ s.engine.adminCqSize.toNat := by
    simp only [Engine.adminValid, inRange, Bool.and_eq_true, decide_eq_true_eq] at valid
    omega
  have running : ({ s with engine := { s.engine with state := .running, cause := .none } } : State).RoomHolds :=
    { h with stopped := fun _ => ⟨no_fetch, free⟩ }
  have cq := running.withCq (q := 0) (x := s.engine.adminCq)
    ((h.reserved 0).trans (State.reservations_of_free free 0)).symm nofun
    fun _ => ⟨by show 0 < s.engine.adminCqSize.toNat; omega, by show 0 < s.engine.adminCqSize.toNat; omega, by
      rw [CqContext.occupied_eq, goRound_eq] <;> simp [Engine.adminCq] <;> omega⟩
  exact { cq.withSq (q := 0) (x := s.engine.adminSq) (fun k uses => by
      change (s.slot k).sqId = _ at uses
      rw [free k] at uses
      cases uses)
    (fun _ => ⟨0, rfl, by rw [State.withCq_cq_self]; exact nofun⟩)
    (fun _ => ⟨by show 0 < s.engine.adminSqSize.toNat; omega, by show 0 < s.engine.adminSqSize.toNat; omega⟩) with }

theorem Move.roomHolds (m : Move s t) (h : s.RoomHolds) : t.RoomHolds := by
  have fits (q : QueueId) : (s.cq q).Fits := h.room q
  cases m with
  | choice | pin | channel | hand | drop | discardOf | vectors | windows | cancels => exact { h with }
  | handWrite q =>
    obtain ⟨p, e⟩ := s.handCqWrite_frame q
    rw [e]
    exact { h with }
  | begin =>
    obtain ⟨p, e⟩ := s.beginTransaction_frame
    rw [e]
    exact { h with }
  | append q r accepted =>
    obtain ⟨_, opened, room⟩ := (s.accepts_iff q).1 accepted
    obtain ⟨p, e⟩ := State.handCqWrite_frame (s.withCq q { s.cq q with list := (s.cq q).list ++ [r] }) q
    unfold State.appendRecord
    rw [e]
    exact { h.withCq (x := { s.cq q with list := (s.cq q).list ++ [r] }) rfl .inl ((fits q).append opened room r) with }
  | endDiscarded r => exact State.endHaltIfDone_room (s := s.dropBegun r) { h with }
  | finish k status detail =>
    by_cases working : ∃ w, s.slot k = .working w
    · obtain ⟨w, hw⟩ := working
      have held : (s.slot k).reservedIn = some w.cq := by rw [hw]; rfl
      rw [State.finishSlot_of_working status detail hw]
      have other (f : FetchRecord) (e : s.fetch = some f) : f.slot ≠ k := by
        rintro rfl
        obtain ⟨age, b, fetching⟩ := h.fetchSlot f e
        rw [hw] at fetching
        cases fetching
      exact { h.freed (g := s.fetch)
        (x := (s.cq w.cq).afterCompletion (.commandDone w.tag w.sq (s.sq w.sq).head status detail)) held rfl rfl
        ((fits w.cq).afterCompletion (h.reserved_pos held) _) fun f e => ⟨e, other f e⟩ with }
    · rw [State.finishSlot_of_not_working status detail (not_exists.1 working)]
      exact h
  | closeSq q unused =>
    refine h.withSq (fun k uses => ?_) nofun nofun
    simp only [State.sqInUse, List.any_eq_false, List.mem_finRange, forall_const] at unused
    refine absurd ?_ (unused k)
    cases hk : s.slot k <;> rw [hk] at uses <;> cases uses <;> simp [Slot.usesSq]
  | closingSq q k in_use => exact h.withSq_bound in_use nofun rfl nofun
  | openSq q b x _ closed opened bound head tail _ =>
    refine h.withSq (fun k uses => ?_) (fun _ => ⟨b, bound, by rw [opened]; exact nofun⟩) fun _ => ⟨head, tail⟩
    obtain ⟨i, holds⟩ : ∃ i, (s.slot k).reservedIn = some i := by
      cases hk : s.slot k with
      | free => rw [hk] at uses; cases uses
      | fetching | working => exact ⟨_, rfl⟩
    exact absurd closed (h.slotBound k q i uses holds).1
  | post q tail opened below =>
    have in_use : (s.sq q).state ≠ .closed := by rw [opened]; exact nofun
    exact h.withSq_bound in_use in_use rfl fun _ => ⟨(h.indices q opened).1, below⟩
  | takeRecord f code tag channel returning => exact h.takeRecord code tag channel returning
  | failFetch f fetching => exact h.failFetch fetching
  | startFetch q b k idle eligible free bound => exact h.startFetchFrom idle eligible free bound
  | openCq q x _ closed _ head tail empty none_reserved _ =>
    refine h.withCq (none_reserved.trans (h.reserved_of_closed closed).symm) (fun _ => .inl closed) fun _ => ⟨head, tail, ?_⟩
    rw [empty, none_reserved]
    exact Nat.zero_le _
  | closeCq q unbound => exact h.withCq rfl (fun _ => .inr unbound) (.of_not_opened nofun)
  | wrote q some_record => exact h.withCq rfl .inl ((fits q).afterWrite some_record)
  | release q head accepted =>
    obtain ⟨_, _, inside, before⟩ := (s.releaseAccepted_iff q head).1 accepted
    exact h.withCq rfl .inl ((fits q).release inside before)
  | breakCq q _ =>
    exact { h.withCq (q := q) (x := { s.cq q with state := .broken, list := [] }) rfl nofun (.of_not_opened nofun) with }
  | engine e halted still =>
    exact { h with stopped := fun _ => h.stopped (by rw [halted]; exact nofun) }
  | enable halted valid => exact h.openAdmin halted valid
  | halt _ =>
    rw [State.beginHalt_eq]
    exact State.endHaltIfDone_room (State.haltStart_room h)
  | haltEnd halting => exact State.endHalt_room (h.stopped (by rw [halting]; exact nofun)).2
  | reset kind => exact s.resetBlocks_room kind

/-! ### The statement -/

/-- Settles O6: every move and the entry into FATAL keep the accounting. -/
theorem stepKeepsRoom : Obligations.StepKeepsRoom := fun _ _ h e =>
  step_keeps (P := State.RoomHolds) (fun _ _ h => { h with }) (fun _ _ m => m.roomHolds)
    (fun _ cause _ h => enterFatal_keeps (fun _ _ m => m.roomHolds) (State.fatalStart_room h cause)) h e

end Sys2Proof.Machine
end

section
/-! What the engine's state says of the other blocks (R171), kept by every move; the entry into FATAL apart, since it is made of moves only once the channels have faulted. -/

namespace Sys2Proof.Machine

variable {s t : State}

/-! ### Nothing in flight -/

/-- No command is in flight (R110, R136, R137). -/
structure State.Quiet (s : State) : Prop where
  fetch : s.fetch = none
  cancels : s.cancels = []
  slots : ∀ k, s.slot k = .free
  waits : ∀ c, (s.channel c).store.standby.waits = false

theorem State.EngineHolds.quiet (h : s.EngineHolds) (stopped : s.engine.state ≠ .running) : s.Quiet := by
  obtain ⟨fetch, cancels, slots, waits⟩ := h.commands stopped
  exact ⟨fetch, cancels, slots, waits⟩

theorem State.Quiet.not_busy (h : s.Quiet) : ¬s.Busy := by
  rintro ⟨k, w, working⟩
  rw [h.slots k] at working
  cases working

/-- In RUNNING the engine's state says nothing but the cause. -/
theorem State.EngineHolds.of_running (running : t.engine.state = .running) (cause : t.engine.cause = .none) : t.EngineHolds where
  commands stopped := absurd running stopped
  cause := ⟨fun _ => cause, fun fatal => by rw [running] at fatal; cases fatal⟩
  idle stopped := by rw [running] at stopped; simp at stopped
  fatal fatal := by rw [running] at fatal; cases fatal
  discarded stopped := by rw [running] at stopped; simp at stopped
  halting halting := by rw [running] at halting; cases halting
  halted halted := by rw [running] at halted; cases halted

/-- A change that leaves the engine is judged only where nothing is in flight. -/
theorem State.EngineHolds.of_quiet (h : s.EngineHolds) (engine : t.engine = s.engine)
    (quiet : s.Quiet → s.engine.state ≠ .running → t.EngineHolds) : t.EngineHolds := by
  by_cases running : s.engine.state = .running
  · exact .of_running (by rw [engine]; exact running) (by rw [engine]; exact h.cause.1 running)
  · exact quiet (h.quiet running) running

/-! ### Changes of one block -/

theorem State.EngineHolds.withSq (h : s.EngineHolds) {q : QueueId} {x : SqContext}
    (closed : (s.sq q).state = .closed → x.state = .closed) : (s.withSq q x).EngineHolds :=
  { h with
    halted := fun halted => by
      obtain ⟨requests, begun, pending, queues⟩ := h.halted halted
      refine ⟨requests, begun, pending, fun i => ⟨?_, (queues i).2⟩⟩
      rw [State.withSq_sq]
      split
      · exact closed (queues q).1
      · exact (queues i).1 }

theorem State.EngineHolds.withCq (h : s.EngineHolds) {q : QueueId} {x : CqContext}
    (closed : (s.cq q).state = .closed → x.state = .closed) : (s.withCq q x).EngineHolds :=
  { h with
    halted := fun halted => by
      obtain ⟨requests, begun, pending, queues⟩ := h.halted halted
      refine ⟨requests, begun, pending, fun i => ⟨(queues i).1, ?_⟩⟩
      rw [State.withCq_cq]
      split
      · exact closed (queues q).2
      · exact (queues i).2 }

/-- The request list may take CQ writes in FATAL alone, and the begun set may lose transactions while not the last of a halt. -/
theorem State.EngineHolds.withPort (h : s.EngineHolds) {p : Port}
    (requests : s.engine.state = .fatal → ∀ t ∈ p.requests, isCqWrite t.requester = true)
    (begun : s.engine.state = .fatal ∨ s.engine.state = .halting → ∀ t ∈ p.begun, isCqWrite t.requester = true ∨ t.discarded = true)
    (halting : s.engine.state = .halting → p.requests = [] ∧ p.begun ≠ [])
    (halted : s.engine.state = .halted → p.requests = [] ∧ p.begun = []) : (s.withPort p).EngineHolds :=
  { h with
    fatal := fun fatal => ⟨(h.fatal fatal).1, requests fatal⟩
    discarded := begun
    halting := halting
    halted := fun stopped => by
      obtain ⟨_, _, pending, queues⟩ := h.halted stopped
      exact ⟨(halted stopped).1, (halted stopped).2, pending, queues⟩ }

/-- The write of an OPEN CQ's record joins the requests: not in HALTING, and in HALTED no CQ is OPEN. -/
theorem State.EngineHolds.handCqWrite (h : s.EngineHolds) (q : QueueId) : (s.handCqWrite q).EngineHolds := by
  obtain ⟨p, e⟩ := s.handCqWrite_frame q
  have requests := s.handCqWrite_requests q
  have begun := s.handCqWrite_begun q
  rw [e] at requests begun ⊢
  change p.requests = _ ∨ _ at requests
  change p.begun = _ at begun
  rcases requests with same | ⟨not_halting, opened, joined⟩
  · exact { h.withPort (p := p) (by rw [same]; exact fun fatal => (h.fatal fatal).2) (by rw [begun]; exact h.discarded)
      (by rw [same, begun]; exact h.halting)
      (by rw [same, begun]; exact fun halted => ⟨(h.halted halted).1, (h.halted halted).2.1⟩) with }
  · refine { h.withPort (p := p) (fun fatal t mem => ?_) (by rw [begun]; exact h.discarded)
      (fun halting => absurd halting not_halting) (fun halted => ?_) with }
    · change p.requests = _ at joined
      rw [joined, List.mem_append, List.mem_singleton] at mem
      rcases mem with old | rfl
      · exact (h.fatal fatal).2 t old
      · rfl
    · obtain ⟨_, _, _, queues⟩ := h.halted halted
      rw [(queues q).2] at opened
      cases opened

/-- A transaction leaves the begun set, unless that ends a halt. -/
theorem State.EngineHolds.dropBegun (h : s.EngineHolds) (r : Requester)
    (not_last : s.engine.state = .halting → (s.dropBegun r).port.begun ≠ []) : (s.dropBegun r).EngineHolds :=
  h.withPort (fun fatal => (h.fatal fatal).2) (fun stopped t mem => h.discarded stopped t (List.mem_of_mem_eraseP mem))
    (fun halting => ⟨(h.halting halting).1, not_last halting⟩)
    fun halted => ⟨(h.halted halted).1, by
      obtain ⟨_, begun, _⟩ := h.halted halted
      rw [begun]
      rfl⟩

/-- A calm change of a channel, seen where nothing is in flight. -/
theorem State.EngineHolds.withChannel (h : s.EngineHolds) {c : ChannelId} {now : Channel}
    (calm : (s.channel c).Calm s.Busy now) : (s.withChannel c now).EngineHolds := by
  refine h.of_quiet rfl fun quiet stopped => ?_
  have idle := quiet.not_busy
  refine { h with commands := fun _ => ⟨quiet.fetch, quiet.cancels, quiet.slots, fun i => ?_⟩
                  idle := fun halt => ⟨fun i => ?_, (h.idle halt).2⟩
                  fatal := fun fatal => ⟨fun i => ?_, (h.fatal fatal).2⟩ }
  · rw [State.withChannel_channel]
    split
    · cases waits : now.store.standby.waits with
      | false => rfl
      | true =>
        have waited := (calm.waits waits).resolve_right idle
        rw [quiet.waits c] at waited
        cases waited
    · exact quiet.waits i
  · rw [State.withChannel_channel]
    split
    · obtain ⟨was_idle, none_held⟩ := (h.idle halt).1 c
      obtain ⟨still, held⟩ := (calm.idle was_idle).resolve_left idle
      exact ⟨still, held none_held⟩
    · exact (h.idle halt).1 i
  · rw [State.withChannel_channel]
    split
    · cases on : now.isOn with
      | false => rfl
      | true =>
        have was_on := (calm.on on).resolve_right idle
        rw [(h.fatal fatal).1 c] at was_on
        cases was_on
    · exact (h.fatal fatal).1 i

/-! ### The halt -/

/-- What stands during a halt, whether or not a transaction is still begun (R137, R157, R177). -/
structure State.HaltHolds (s : State) : Prop where
  quiet : s.Quiet
  idle : ∀ c, (s.channel c).seq.state = .idle ∧ (s.channel c).seq.held = none
  timers : ∀ q, s.vectors.timers.read q = none
  requests : s.port.requests = []
  begun : ∀ t ∈ s.port.begun, isCqWrite t.requester = true ∨ t.discarded = true

theorem State.EngineHolds.haltHolds (h : s.EngineHolds) (halting : s.engine.state = .halting) : s.HaltHolds where
  quiet := h.quiet (by rw [halting]; exact nofun)
  idle := (h.idle (.inr halting)).1
  timers := (h.idle (.inr halting)).2
  requests := (h.halting halting).1
  begun := h.discarded (.inr halting)

theorem State.HaltHolds.endHalt (h : s.HaltHolds) (empty : s.port.begun = []) : s.endHalt.EngineHolds where
  commands _ := ⟨rfl, h.quiet.cancels, h.quiet.slots, h.quiet.waits⟩
  cause := ⟨nofun, nofun⟩
  idle _ := ⟨h.idle, fun q => Table.read_fill _ q⟩
  fatal := nofun
  discarded := nofun
  halting := nofun
  halted _ := ⟨h.requests, empty, rfl, fun q => ⟨congrArg SqContext.state (Table.read_fill _ q), resetCqs_state q⟩⟩

theorem State.HaltHolds.endHaltIfDone (h : s.HaltHolds) (halting : s.engine.state = .halting) :
    s.endHaltIfDone.EngineHolds := by
  unfold State.endHaltIfDone
  split
  · rename_i last
    exact h.endHalt (by simpa using (Bool.and_eq_true_iff.1 last).2)
  · rename_i more
    have begun : s.port.begun ≠ [] := by simpa [halting] using more
    exact {
      commands := fun _ => ⟨h.quiet.fetch, h.quiet.cancels, h.quiet.slots, h.quiet.waits⟩
      cause := ⟨fun e => (by rw [halting] at e; cases e), fun e => (by rw [halting] at e; cases e)⟩
      idle := fun _ => ⟨h.idle, h.timers⟩
      fatal := fun e => by rw [halting] at e; cases e
      discarded := fun _ => h.begun
      halting := fun _ => ⟨h.requests, begun⟩
      halted := fun e => by rw [halting] at e; cases e }

theorem Standby.giveUp_waits (x : Standby) : x.giveUp.waits = false := by
  cases x with
  | loading l => exact l.prior.toStandby_waits
  | empty | ready | swapPending => rfl

/-- A begun transaction that is no CQ write has its result discarded (R110, R136, R137). -/
theorem discardUnlessCqWrite_or (b : Transaction) :
    isCqWrite (discardUnlessCqWrite b).requester = true ∨ (discardUnlessCqWrite b).discarded = true := by
  unfold discardUnlessCqWrite
  split
  · exact .inl ‹_›
  · exact .inr rfl

theorem State.haltStart_channel (s : State) (c : ChannelId) : s.haltStart.channel c = (s.channel c).atHalt :=
  Table.read_map _ _ _

theorem State.haltStart_halts (s : State) : s.haltStart.HaltHolds where
  quiet := {
    fetch := rfl
    cancels := rfl
    slots := fun k => s.discardCommands_slot k
    waits := fun c => by
      rw [s.haltStart_channel c]
      exact Standby.giveUp_waits _ }
  idle c := by
    rw [s.haltStart_channel c]
    exact ⟨rfl, rfl⟩
  timers q := Table.read_fill _ q
  requests := rfl
  begun t mem := by
    obtain ⟨b, _, rfl⟩ := List.mem_map.1 mem
    exact discardUnlessCqWrite_or b

/-! ### The entry into FATAL -/

/-- What stands in FATAL, whether or not the channels have faulted (R110, R162, R179). -/
structure State.FatalHolds (s : State) : Prop where
  state : s.engine.state = .fatal
  cause : s.engine.cause = .adminFetchError ∨ s.engine.cause = .adminWriteError
  quiet : s.Quiet
  requests : ∀ t ∈ s.port.requests, isCqWrite t.requester = true
  begun : ∀ t ∈ s.port.begun, isCqWrite t.requester = true ∨ t.discarded = true

theorem State.FatalHolds.engineHolds (h : s.FatalHolds) (off : ∀ c, (s.channel c).isOn = false) : s.EngineHolds where
  commands _ := ⟨h.quiet.fetch, h.quiet.cancels, h.quiet.slots, h.quiet.waits⟩
  cause := ⟨fun e => (by rw [h.state] at e; cases e), fun _ => h.cause⟩
  idle e := by rw [h.state] at e; simp at e
  fatal _ := ⟨off, h.requests⟩
  discarded _ := h.begun
  halting e := by rw [h.state] at e; cases e
  halted e := by rw [h.state] at e; cases e

theorem State.discardCommands_channel (s : State) (c : ChannelId) :
    s.discardCommands.channel c = (s.channel c).withStandby (s.channel c).store.standby.giveUp :=
  Table.read_map _ _ _

theorem State.fatalStart_fatal (s : State) {cause : EngineCause} (admin : cause = .adminFetchError ∨ cause = .adminWriteError) :
    (s.fatalStart cause).FatalHolds where
  state := rfl
  cause := admin
  quiet := {
    fetch := rfl
    cancels := rfl
    slots := fun k => s.discardCommands_slot k
    waits := fun c => by
      show (s.discardCommands.channel c).store.standby.waits = false
      rw [s.discardCommands_channel c]
      exact Standby.giveUp_waits _ }
  requests t mem := by simpa using (List.mem_filter.1 mem).2
  begun t mem := by
    obtain ⟨b, _, rfl⟩ := List.mem_map.1 mem
    exact discardUnlessCqWrite_or b

/-- A notice's offer adds nothing to the requests but a CQ write (R147). -/
theorem State.offerChannelNotice_requests (s : State) (c : ChannelId) (cause : FaultCause) :
    ∀ t ∈ (s.offerChannelNotice c cause).port.requests, t ∈ s.port.requests ∨ isCqWrite t.requester = true := by
  unfold State.offerChannelNotice
  split
  · exact fun t mem => .inl mem
  · split
    · rename_i q _ _ _
      intro t mem
      unfold State.appendRecord at mem
      rcases State.handCqWrite_requests (s.withCq q { s.cq q with list := (s.cq q).list ++ [.channelNotice c cause] }) q with
        same | ⟨_, _, joined⟩
      · rw [same] at mem
        exact .inl mem
      · rw [joined, List.mem_append, List.mem_singleton] at mem
        rcases mem with old | rfl
        · exact .inl old
        · exact .inr rfl
    · exact fun t mem => .inl mem
  · exact fun t mem => .inl mem

/-- A channel's fault at engine FATAL (R92). -/
theorem State.FatalHolds.faultEntry (h : s.FatalHolds) (c : ChannelId) :
    (s.faultEntry c .engine).FatalHolds ∧
      ∀ i, i = c ∨ (s.channel i).isOn = false → ((s.faultEntry c .engine).channel i).isOn = false := by
  cases on : (s.channel c).isOn with
  | false =>
    rw [State.faultEntry_off s c .engine on]
    refine ⟨h, fun i off => ?_⟩
    rcases off with rfl | off
    · exact on
    · exact off
  | true =>
    have no_swap : ∀ k, (s.channel c).store.standby ≠ .swapPending k := fun k swap => by
      have := h.quiet.waits c
      rw [swap] at this
      cases this
    rw [State.faultEntry_of_free .engine on h.quiet.slots no_swap]
    have requests := (s.withChannel c ((s.channel c).resting (.fault .engine))).offerChannelNotice_requests c .engine
    have begun := (s.withChannel c ((s.channel c).resting (.fault .engine))).offerChannelNotice_begun c .engine
    obtain ⟨held, channels⟩ := (s.withChannel c ((s.channel c).resting (.fault .engine))).offerChannelNotice_channel c .engine
    obtain ⟨x, p, ch, e⟩ := (s.withChannel c ((s.channel c).resting (.fault .engine))).offerChannelNotice_frame c .engine
    have standby (i : ChannelId) : (((s.withChannel c ((s.channel c).resting (.fault .engine))).offerChannelNotice c
        .engine).channel i).store = (s.channel i).store := by
      rw [channels]
      split
      · rename_i same
        subst same
        rw [State.withChannel_channel_self]
        rfl
      · rename_i other
        rw [State.withChannel_channel_ne _ _ _ _ other]
    refine ⟨⟨?_, ?_, ⟨?_, ?_, ?_, fun i => ?_⟩, fun t mem => ?_, ?_⟩, fun i off => ?_⟩
    · rw [e]; exact h.state
    · rw [e]; exact h.cause
    · rw [e]; exact h.quiet.fetch
    · rw [e]; exact h.quiet.cancels
    · rw [e]; exact h.quiet.slots
    · rw [standby]
      exact h.quiet.waits i
    · exact (requests t mem).elim (fun old => h.requests t old) id
    · rw [begun]
      exact h.begun
    · rw [channels]
      split
      · rw [State.withChannel_channel_self]
        rfl
      · rename_i other
        rw [State.withChannel_channel_ne _ _ _ _ other]
        exact off.resolve_left other

theorem State.FatalHolds.forChannels (h : s.FatalHolds) : (s.forChannels fun u c => u.faultEntry c .engine).EngineHolds := by
  have all (l : List ChannelId) (u : State) (hu : u.FatalHolds) :
      (l.foldl (fun u c => u.faultEntry c .engine) u).FatalHolds ∧
        ∀ i, i ∈ l ∨ (u.channel i).isOn = false →
          ((l.foldl (fun u c => u.faultEntry c .engine) u).channel i).isOn = false := by
    induction l generalizing u with
    | nil => exact ⟨hu, fun i off => off.resolve_left (List.not_mem_nil)⟩
    | cons c rest ih =>
      obtain ⟨faulted, off⟩ := hu.faultEntry c
      obtain ⟨holds, later⟩ := ih (u.faultEntry c .engine) faulted
      refine ⟨holds, fun i hi => later i ?_⟩
      rcases hi with mem | was_off
      · rcases List.mem_cons.1 mem with rfl | mem
        · exact .inr (off i (.inl rfl))
        · exact .inl mem
      · exact .inr (off i (.inr was_off))
  obtain ⟨holds, off⟩ := all (List.finRange 4) s h
  exact holds.engineHolds fun c => off c (.inl (List.mem_finRange c))

/-! ### Every move -/

theorem Channel.dropHeldOn_eq (q : QueueId) (ch : Channel) :
    ∃ x, ch.dropHeldOn q = ch.withHeld x ∧ (ch.seq.held = none → x = none) := by
  unfold Channel.dropHeldOn
  split
  · split
    · exact ⟨none, rfl, fun _ => rfl⟩
    · exact ⟨ch.seq.held, rfl, id⟩
  · exact ⟨ch.seq.held, rfl, id⟩

theorem State.EngineHolds.withVectors (h : s.EngineHolds) {v : VectorUnit}
    (idle : s.engine.state = .halted ∨ s.engine.state = .halting → ∀ q, v.timers.read q = none)
    (pending : s.engine.state = .halted → v.pending = 0) : (s.withVectors v).EngineHolds :=
  { h with
    idle := fun stopped => ⟨(h.idle stopped).1, idle stopped⟩
    halted := fun halted => by
      obtain ⟨requests, begun, _, queues⟩ := h.halted halted
      exact ⟨requests, begun, pending halted, queues⟩ }

theorem State.EngineHolds.breakCq (h : s.EngineHolds) (q : QueueId) (begun : s.port.begun ≠ []) : (s.breakCq q).EngineHolds := by
  have not_halted : s.engine.state ≠ .halted := fun halted => begun (h.halted halted).2.1
  have channels (c : ChannelId) : (s.breakCq q).channel c = (s.channel c).dropHeldOn q := Table.read_map _ _ _
  exact { h with
    commands := fun stopped => by
      have quiet := h.quiet stopped
      refine ⟨quiet.fetch, quiet.cancels, quiet.slots, fun c => ?_⟩
      obtain ⟨x, e, _⟩ := (s.channel c).dropHeldOn_eq q
      rw [channels, e]
      exact quiet.waits c
    idle := fun stopped => by
      obtain ⟨idle, timers⟩ := h.idle stopped
      refine ⟨fun c => ?_, VectorUnit.clearQueue_timers _ q timers⟩
      obtain ⟨x, e, none_held⟩ := (s.channel c).dropHeldOn_eq q
      rw [channels, e]
      exact ⟨(idle c).1, none_held (idle c).2⟩
    fatal := fun fatal => by
      obtain ⟨off, requests⟩ := h.fatal fatal
      refine ⟨fun c => ?_, requests⟩
      obtain ⟨x, e, _⟩ := (s.channel c).dropHeldOn_eq q
      rw [channels, e]
      exact off c
    halted := fun halted => absurd halted not_halted }

theorem State.EngineHolds.beginTransaction (h : s.EngineHolds) : s.beginTransaction.EngineHolds := by
  unfold State.beginTransaction
  split
  · exact h
  · rename_i t rest list
    split
    · refine h.withPort (fun fatal u mem => ?_) (fun stopped u mem => ?_) (fun halting => ?_) (fun halted => ?_)
      · exact (h.fatal fatal).2 u (by rw [list]; exact List.mem_cons_of_mem _ mem)
      · rcases List.mem_append.1 mem with old | new
        · exact h.discarded stopped u old
        · obtain rfl := List.mem_singleton.1 new
          rcases stopped with fatal | halting
          · exact .inl ((h.fatal fatal).2 t (by rw [list]; exact List.mem_cons_self))
          · rw [(h.halting halting).1] at list
            cases list
      · rw [(h.halting halting).1] at list
        cases list
      · rw [(h.halted halted).1] at list
        cases list
    · exact h

theorem State.EngineHolds.discardOf (h : s.EngineHolds) (r : Requester) : (s.withPort (s.port.discardOf r)).EngineHolds := by
  have kept (b : Transaction) : (if (b.requester == r) = true then b.discard else b).requester = b.requester := by
    split <;> rfl
  refine h.withPort (fun fatal u mem => ?_) (fun stopped u mem => ?_) (fun halting => ?_) (fun halted => ?_)
  · obtain ⟨b, old, rfl⟩ := List.mem_map.1 mem
    rw [kept]
    exact (h.fatal fatal).2 b old
  · obtain ⟨b, old, rfl⟩ := List.mem_map.1 mem
    rw [kept]
    refine (h.discarded stopped b old).imp id fun was => ?_
    split
    · rfl
    · exact was
  · obtain ⟨requests, begun⟩ := h.halting halting
    simp [Port.discardOf, requests, begun]
  · obtain ⟨requests, begun, _⟩ := h.halted halted
    simp [Port.discardOf, requests, begun]

/-- What a requester acts on is not discarded, so in HALTING it is a CQ write. -/
theorem State.EngineHolds.not_halting_of_fails (h : s.EngineHolds) {r : Requester} (command : isCqWrite r = false)
    (fails : s.port.fails r = true) : s.engine.state ≠ .halting := by
  intro halting
  obtain ⟨t, found, wanted⟩ := (s.port.fails_iff r).1 fails
  obtain ⟨mem, rfl⟩ := Port.begunOf_eq_some found
  rcases h.discarded (.inr halting) t mem with write | discarded
  · rw [command] at write
    cases write
  · rw [wanted] at discarded
    cases discarded

theorem State.EngineHolds.endDiscarded (h : s.EngineHolds) (r : Requester) : (s.endDiscarded r).EngineHolds := by
  by_cases halting : s.engine.state = .halting
  · have holds := h.haltHolds halting
    exact State.HaltHolds.endHaltIfDone (s := s.dropBegun r)
      { holds with
        quiet := { holds.quiet with }
        begun := fun t mem => holds.begun t (List.mem_of_mem_eraseP mem) } halting
  · have same : s.endDiscarded r = s.dropBegun r := by
      unfold State.endDiscarded State.endHaltIfDone
      exact if_neg fun last => halting (eq_of_beq (Bool.and_eq_true_iff.1 last).1)
    rw [same]
    exact h.dropBegun r fun e => absurd e halting

theorem State.resetBlocks_engineHolds (s : State) (kind : LastReset) : (s.resetBlocks kind).EngineHolds := by
  have channel (c : ChannelId) : (s.resetBlocks kind).channel c = .reset (s.channel c).sense.pins (s.channel c).sense.tripLine :=
    Table.read_map _ _ _
  exact {
    commands := fun _ => ⟨rfl, rfl, fun k => Table.read_fill _ k, fun c => by rw [channel]; rfl⟩
    cause := ⟨nofun, nofun⟩
    idle := fun _ => ⟨fun c => by rw [channel]; exact ⟨rfl, rfl⟩, fun q => Table.read_fill _ q⟩
    fatal := nofun
    discarded := nofun
    halting := nofun
    halted := fun _ => ⟨rfl, rfl, rfl, fun q => ⟨congrArg SqContext.state (Table.read_fill _ q), resetCqs_state q⟩⟩ }

theorem Move.engineHolds (m : Move s t) (h : s.EngineHolds) : t.EngineHolds := by
  cases m with
  | choice | pin | windows => exact { h with }
  | channel c now calm => exact h.withChannel calm
  | append q r accepted =>
    obtain ⟨_, opened, _⟩ := (s.accepts_iff q).1 accepted
    have listed := h.withCq (q := q) (x := { s.cq q with list := (s.cq q).list ++ [r] }) id
    exact listed.handCqWrite q
  | handWrite q => exact h.handCqWrite q
  | hand r a command waiting =>
    refine h.of_quiet rfl fun quiet _ => ?_
    rcases waiting with busy | ⟨c, waits⟩
    · exact absurd busy quiet.not_busy
    · rw [quiet.waits c] at waits
      cases waits
  | drop r cause =>
    refine h.dropBegun r fun halting => absurd halting ?_
    rcases cause with not_halting | ⟨command, fails⟩
    · exact not_halting
    · exact h.not_halting_of_fails command fails
  | discardOf r => exact h.discardOf r
  | endDiscarded r => exact h.endDiscarded r
  | begin => exact h.beginTransaction
  | finish k status detail =>
    refine h.of_quiet ?_ fun quiet _ => ?_
    · obtain ⟨x, p, sl, e⟩ := s.finishSlot_frame k status detail
      rw [e]
    · rw [State.finishSlot_of_not_working status detail fun w working => by rw [quiet.slots k] at working; cases working]
      exact h
  | cancels l none_added =>
    refine h.of_quiet rfl fun quiet _ => ?_
    obtain rfl := (none_added quiet.cancels).resolve_right quiet.not_busy
    exact { h with commands := fun _ => ⟨quiet.fetch, rfl, quiet.slots, quiet.waits⟩ }
  | closeSq q _ => exact h.withSq fun _ => rfl
  | closingSq q k in_use => exact h.withSq fun closed => absurd closed in_use
  | openSq q b x busy => exact h.of_quiet rfl fun quiet _ => absurd busy quiet.not_busy
  | post q tail opened _ => exact h.withSq id
  | takeRecord f code tag channel returning =>
    refine h.of_quiet rfl fun quiet _ => ?_
    have fetching := (State.returning_eq_some returning).1
    rw [quiet.fetch] at fetching
    cases fetching
  | failFetch f fetching =>
    refine h.of_quiet ?_ fun quiet _ => ?_
    · unfold State.freeFetchSlot
      split <;> rfl
    · rw [quiet.fetch] at fetching
      cases fetching
  | startFetch q b k idle =>
    refine h.of_quiet ?_ fun _ stopped => ?_
    · obtain ⟨sl, x, f, l, n, p, e⟩ := s.startFetchFrom_frame q b k
      rw [e]
    · simp [State.fetchIdle, stopped] at idle
  | openCq q x busy => exact h.of_quiet rfl fun quiet _ => absurd busy quiet.not_busy
  | closeCq q _ => exact h.withCq fun _ => rfl
  | wrote q _ => exact h.withCq id
  | release q head _ => exact h.withCq id
  | breakCq q begun => exact h.breakCq q begun
  | vectors v cause =>
    have same_if_stopped (halt : s.engine.state = .halted ∨ s.engine.state = .halting) :
        (∀ q, v.timers.read q = none) ∧ (s.vectors.pending = 0 → v.pending = 0) := by
      rcases cause with ⟨not_halting, begun⟩ | kept
      · rcases halt with halted | halting
        · exact absurd (h.halted halted).2.1 begun
        · exact absurd halting not_halting
      · exact kept (h.idle halt).2
    exact h.withVectors (fun halt => (same_if_stopped halt).1)
      fun halted => (same_if_stopped (.inl halted)).2 (h.halted halted).2.2.1
  | engine e halted still =>
    have quiet := h.quiet (by rw [halted]; exact nofun)
    exact {
      commands := fun _ => ⟨quiet.fetch, quiet.cancels, quiet.slots, quiet.waits⟩
      cause := ⟨fun running => (by rw [still] at running; cases running), fun fatal => (by rw [still] at fatal; cases fatal)⟩
      idle := fun _ => h.idle (.inl halted)
      fatal := fun fatal => by rw [still] at fatal; cases fatal
      discarded := fun stopped => by rw [still] at stopped; simp at stopped
      halting := fun halting => by rw [still] at halting; cases halting
      halted := fun _ => h.halted halted }
  | enable _ _ => exact .of_running rfl rfl
  | halt _ =>
    rw [State.beginHalt_eq]
    exact s.haltStart_halts.endHaltIfDone rfl
  | haltEnd halting =>
    have holds := h.haltHolds halting
    exact State.HaltHolds.endHalt (s := s.withPort { s.port with begun := [] })
      { holds with
        quiet := { holds.quiet with }
        begun := nofun } rfl
  | reset kind => exact s.resetBlocks_engineHolds kind

/-! ### The statement -/

/-- Settles O9: every move keeps it, and the entry into FATAL establishes it anew. -/
theorem stepKeepsEngine : Obligations.StepKeepsEngine := fun _ _ h e =>
  step_keeps (P := State.EngineHolds) (fun _ _ h => { h with }) (fun _ _ m => m.engineHolds)
    (fun s cause admin _ => by
      rw [State.enterFatal_eq]
      exact (s.fatalStart_fatal admin).forChannels) h e

end Sys2Proof.Machine
end

section
/-! The step, the commands as a whole, resets and the entry into FATAL: what each answers, whatever the command. -/

namespace Sys2Proof.Machine

/-! ### The waiting commands -/

theorem Move.pending {s t : State} (m : Move s t) : t.pending = s.pending := by
  cases m with
  | handWrite q =>
    obtain ⟨p, e⟩ := s.handCqWrite_frame q
    rw [e]
  | append q r =>
    obtain ⟨x, p, e⟩ := s.appendRecord_frame q r
    rw [e]
  | endDiscarded r =>
    obtain ⟨y, f, l, x, v, p, en, e⟩ := s.endDiscarded_frame r
    rw [e]
  | begin =>
    obtain ⟨p, e⟩ := s.beginTransaction_frame
    rw [e]
  | finish k status detail =>
    obtain ⟨x, p, sl, e⟩ := s.finishSlot_frame k status detail
    rw [e]
  | failFetch f =>
    unfold State.freeFetchSlot
    split <;> rfl
  | startFetch q b k =>
    obtain ⟨sl, x, f, l, n, p, e⟩ := s.startFetchFrom_frame q b k
    rw [e]
  | halt =>
    obtain ⟨en, y, f, l, sl, ca, x, v, p, ch, e⟩ := s.beginHalt_frame
    rw [e]
  | choice | pin | channel | hand | drop | discardOf | cancels | closeSq | closingSq | openSq | post | takeRecord | openCq
  | closeCq | wrote | release | breakCq | vectors | windows | engine | enable | haltEnd | reset => rfl

theorem Stepped.pending {s t : State} (h : Stepped s t) : t.pending = s.pending := by
  obtain ⟨u, moves, same⟩ := h
  have kept : u.pending = s.pending := moves.keeps (P := fun v => v.pending = s.pending) (fun _ _ m e => m.pending.trans e) rfl
  rcases same with rfl | ⟨cause, _, rfl⟩
  · exact kept
  · obtain ⟨en, y, f, sl, ca, x, p, ch, e⟩ := u.enterFatal_frame cause
    rw [e]
    exact kept

/-- A term a sender can spell completes in a next state. -/
theorem exec_next {c : Instr} (s : State) (spelled : c.wellFormed = true) : ∃ t, exec c s = .next t := by
  cases c with
  | unknownCommand tag code =>
    have unknown : isCommandCode code = false := by simpa [Instr.wellFormed] using spelled
    exact ⟨_, if_neg (by rw [unknown]; exact Bool.false_ne_true)⟩
  | cqWriteError q =>
    have io : q ≠ 0 := by simpa [Instr.wellFormed] using spelled
    exact ⟨_, if_neg io⟩
  | registerWriteIgnored offset value => exact ⟨_, if_pos spelled⟩
  | _ => exact ⟨_, rfl⟩

theorem exec_illFormed {c : Instr} (s : State) (unspelled : c.wellFormed = false) : exec c s = .fault .illFormed := by
  cases c with
  | unknownCommand tag code =>
    have known : isCommandCode code = true := by simpa [Instr.wellFormed] using unspelled
    exact if_pos known
  | cqWriteError q =>
    have admin : q = 0 := by simpa [Instr.wellFormed] using unspelled
    exact if_pos admin
  | registerWriteIgnored offset value =>
    have taken : ¬isIgnoredOffset offset = true := by simpa [Instr.wellFormed] using unspelled
    exact if_neg taken
  | _ => cases unspelled

/-! ### The held reset pin -/

theorem exec_held {c : Instr} {s : State} (held : s.resetPin = true) (spelled : c.wellFormed = true)
    (not_power_on : c ≠ .powerOnReset) (not_pin : c ≠ .pinReset) (not_release : c ≠ .resetPinRelease) : exec c s = .next s := by
  cases c with
  | powerOnReset => exact absurd rfl not_power_on
  | pinReset => exact absurd rfl not_pin
  | resetPinRelease => exact absurd rfl not_release
  | unknownCommand tag code =>
    have unknown : isCommandCode code = false := by simpa [Instr.wellFormed] using spelled
    exact (if_neg (by rw [unknown]; exact Bool.false_ne_true)).trans (atEvent_held held)
  | cqWriteError q =>
    have io : q ≠ 0 := by simpa [Instr.wellFormed] using spelled
    exact (if_neg io).trans (atEvent_held held)
  | registerWriteIgnored offset value => exact (if_pos spelled).trans (atEvent_held held)
  | _ => exact congrArg Host.Outcome.next (if_pos held)

/-! ### The state after reset -/

theorem State.reset_channel (c : ChannelId) : State.reset.channel c = .reset (Table.fill 3 .low) .low := Table.read_fill _ c

theorem State.reset_resetBlocks : State.reset.resetBlocks .powerOn = State.reset := by
  have channels : State.reset.channels.map (fun ch => Channel.reset ch.sense.pins ch.sense.tripLine) = State.reset.channels :=
    Table.ext_read fun c => by
      rw [Table.read_map]
      show Channel.reset (State.reset.channel c).sense.pins (State.reset.channel c).sense.tripLine = State.reset.channel c
      rw [State.reset_channel]
      rfl
  exact congrArg (fun x => { State.reset with channels := x }) channels

/-! ### The statements -/

/-- Settles O1: the step is defined so. -/
theorem stepTakesFrontCommand : Obligations.StepTakesFrontCommand := fun _ _ _ => rfl

/-- Settles O2: a spelled command answers, and neither a move nor the entry into FATAL touches the waiting commands. -/
theorem everyCommandAnswers : Obligations.EveryCommandAnswers := by
  refine fun c s => ⟨fun spelled => ?_, exec_illFormed s⟩
  obtain ⟨t, answer⟩ := exec_next s spelled
  exact ⟨t, answer, (exec_stepped answer).pending⟩

/-- Settles O3: command by command, most being events, which the pin holds off. -/
theorem heldResetKeepsEverything : Obligations.HeldResetKeepsEverything := fun _ _ => exec_held

/-- Settles O10: the state after reset is what a reset leaves of itself, and resets establish the invariants. -/
theorem resetMeetsInvariants : Obligations.ResetMeetsInvariants := by
  refine ⟨Nat.zero_le 4, ?_, ?_, ?_, ?_, ?_⟩
  · rw [← State.reset_resetBlocks]
    exact State.resetBlocks_rings _ _
  · rw [← State.reset_resetBlocks]
    exact State.resetBlocks_room _ _
  · intro c
    rw [State.reset_channel]
    exact Channel.tablesHold_reset _ _
  · intro c
    rw [State.reset_channel]
    exact Channel.rangesHold_reset _ _
  · rw [← State.reset_resetBlocks]
    exact State.resetBlocks_engineHolds _ _

/-- Settles O11: a reset is defined by these values. -/
theorem resetsLeaveNamedValues : Obligations.ResetsLeaveNamedValues := by
  refine fun s run => ⟨rfl, rfl, fun released => ?_, rfl⟩
  have done : exec (.softReset run) s = .next (s.afterReset .soft s.resetPin) := by
    show Host.Outcome.next (if s.resetPin then s else s.resetBlocks .soft) = _
    rw [if_neg (by rw [released]; exact Bool.false_ne_true)]
    rfl
  rw [released] at done
  exact done

/-- Settles O50: the entry into FATAL is defined by this state and these four faults. -/
theorem fatalEntryDiscardsCommands : Obligations.FatalEntryDiscardsCommands := by
  rintro s t cause rfl
  rfl

end Sys2Proof.Machine
end

section
/-! The records of chapter 11: command records and register writes there and back (R186, R188), step records field by field with their nine failures (R6, R185), and the bytes the part writes (R187). -/

namespace Sys2Proof

/-! ### Little-endian fields -/

/-- Adjacent fields of a word join to one field. -/
theorem join_fields {n : Nat} (w : BitVec n) (hi m lo len : Nat) (adjacent : hi = lo + len) :
    w.extractLsb' hi m ++ w.extractLsb' lo len = w.extractLsb' lo (m + len) :=
  BitVec.extractLsb'_append_extractLsb'_eq_extractLsb' adjacent

theorem byteAt_half (w : BitVec 16) : byteAt w 1 ++ byteAt w 0 = w :=
  (join_fields w 8 8 0 8 rfl).trans BitVec.extractLsb'_eq_self

theorem byteAt_length (w : BitVec 32) : byteAt w 3 ++ byteAt w 2 ++ byteAt w 1 ++ byteAt w 0 = w := by
  show w.extractLsb' 24 8 ++ w.extractLsb' 16 8 ++ w.extractLsb' 8 8 ++ w.extractLsb' 0 8 = w
  rw [join_fields w 24 8 16 8 rfl, join_fields w 16 16 8 8 rfl, join_fields w 8 24 0 8 rfl]
  exact BitVec.extractLsb'_eq_self

theorem byteAt_address (w : Addr) :
    byteAt w 7 ++ byteAt w 6 ++ byteAt w 5 ++ byteAt w 4 ++ byteAt w 3 ++ byteAt w 2 ++ byteAt w 1 ++ byteAt w 0 = w := by
  show w.extractLsb' 56 8 ++ w.extractLsb' 48 8 ++ w.extractLsb' 40 8 ++ w.extractLsb' 32 8 ++ w.extractLsb' 24 8 ++
    w.extractLsb' 16 8 ++ w.extractLsb' 8 8 ++ w.extractLsb' 0 8 = w
  rw [join_fields w 56 8 48 8 rfl, join_fields w 48 16 40 8 rfl, join_fields w 40 24 32 8 rfl, join_fields w 32 32 24 8 rfl,
    join_fields w 24 40 16 8 rfl, join_fields w 16 48 8 8 rfl, join_fields w 8 56 0 8 rfl]
  exact BitVec.extractLsb'_eq_self

/-! ### Command records (R186) -/

section
variable (code flags : Byte) (tag : BitVec 16) (channel : Byte) (address : Addr) (p : List Byte)

theorem recordOf_tag : half (recordOf code flags tag channel address p) 2 3 = tag := byteAt_half tag

theorem recordOf_address : addressField (recordOf code flags tag channel address p) = address := byteAt_address address

end

theorem commandOfRecord_of_unknown (b : Table 32 Byte) (unknown : isCommandCode (b.read 0) = false) :
    commandOfRecord b = .unknownCommand (half b 2 3) (b.read 0) := by
  simp only [isCommandCode, commandCodes, List.contains_eq_mem, decide_eq_false_iff_not, List.mem_cons, List.not_mem_nil,
    or_false, not_or] at unknown
  unfold commandOfRecord
  simp only [unknown, if_false]

/-- A record is decoded by its code to the row that its fields spell. -/
theorem commandOfRecord_recordOf (i : Instr) (b : Table 32 Byte) (spelled : i.wellFormed = true)
    (record : recordOfCommand i = some b) : commandOfRecord b = i := by
  cases i with
  | openSq tag queue boundCq priority size base =>
    cases record
    show Instr.openSq (half _ 2 3) queue boundCq priority (byteAt size 1 ++ byteAt size 0) (addressField _) = _
    rw [recordOf_tag, recordOf_address, byteAt_half]
  | closeSq tag queue =>
    cases record
    show Instr.closeSq (half _ 2 3) queue = _
    rw [recordOf_tag]
  | openCq tag queue vector threshold time size base =>
    cases record
    show Instr.openCq (half _ 2 3) queue vector threshold time (byteAt size 1 ++ byteAt size 0) (addressField _) = _
    rw [recordOf_tag, recordOf_address, byteAt_half]
  | closeCq tag queue =>
    cases record
    show Instr.closeCq (half _ 2 3) queue = _
    rw [recordOf_tag]
  | setWindow tag number rights length base =>
    cases record
    show Instr.setWindow (half _ 2 3) number rights
      (byteAt length 3 ++ byteAt length 2 ++ byteAt length 1 ++ byteAt length 0) (addressField _) = _
    rw [recordOf_tag, recordOf_address, byteAt_length]
  | setChannel tag channel prescale shift forcedLimit filter tripLevel reportCq minInterval period =>
    cases record
    show Instr.setChannel (half _ 2 3) channel prescale shift forcedLimit filter tripLevel reportCq
      (byteAt minInterval 1 ++ byteAt minInterval 0) (byteAt period 1 ++ byteAt period 0) = _
    rw [recordOf_tag, byteAt_half, byteAt_half]
  | cancel tag queue target =>
    cases record
    show Instr.cancel (half _ 2 3) queue (byteAt target 1 ++ byteAt target 0) = _
    rw [recordOf_tag, byteAt_half]
  | loadSteps tag channel first count clearRest source =>
    cases record
    show Instr.loadSteps (half _ 2 3) channel first count (BitVec.getLsbD (if clearRest then 1 else 0) 0) (addressField _) = _
    rw [recordOf_tag, recordOf_address]
    cases clearRest <;> rfl
  | commitSteps tag channel =>
    cases record
    show Instr.commitSteps (half _ 2 3) channel = _
    rw [recordOf_tag]
  | start tag channel reference =>
    cases record
    show Instr.start (half _ 2 3) channel (byteAt reference 1 ++ byteAt reference 0) = _
    rw [recordOf_tag, byteAt_half]
  | stop tag channel mode deadline =>
    cases record
    show Instr.stop (half _ 2 3) channel mode (byteAt deadline 1 ++ byteAt deadline 0) = _
    rw [recordOf_tag, byteAt_half]
  | advance tag channel =>
    cases record
    show Instr.advance (half _ 2 3) channel = _
    rw [recordOf_tag]
  | clearFault tag channel =>
    cases record
    show Instr.clearFault (half _ 2 3) channel = _
    rw [recordOf_tag]
  | setDuty tag channel duty =>
    cases record
    show Instr.setDuty (half _ 2 3) channel (byteAt duty 1 ++ byteAt duty 0) = _
    rw [recordOf_tag, byteAt_half]
  | readChannel tag channel destination =>
    cases record
    show Instr.readChannel (half _ 2 3) channel (addressField _) = _
    rw [recordOf_tag, recordOf_address]
  | unknownCommand tag code =>
    cases record
    have unknown : isCommandCode code = false := by simpa [Instr.wellFormed] using spelled
    rw [commandOfRecord_of_unknown (recordOf code 0 tag 0 0 []) unknown, recordOf_tag]
    rfl
  | _ => cases record

/-! ### Unread bytes (R99) -/

section
variable {a b : Table 32 Byte}

theorem half_congr {lo hi : Fin 32} (low : a.read lo = b.read lo) (high : a.read hi = b.read hi) : half a lo hi = half b lo hi := by
  unfold half
  rw [low, high]

theorem addressField_congr (h : ∀ j : Fin 32, 8 ≤ j.val ∧ j.val ≤ 15 → a.read j = b.read j) : addressField a = addressField b := by
  unfold addressField
  rw [h 8 (by decide), h 9 (by decide), h 10 (by decide), h 11 (by decide), h 12 (by decide), h 13 (by decide),
    h 14 (by decide), h 15 (by decide)]

theorem lengthField_congr (h : ∀ j : Fin 32, 20 ≤ j.val ∧ j.val ≤ 23 → a.read j = b.read j) : lengthField a = lengthField b := by
  unfold lengthField
  rw [h 20 (by decide), h 21 (by decide), h 22 (by decide), h 23 (by decide)]

/-- Records that agree where their code reads are the same command. -/
theorem commandOfRecord_congr (code : a.read 0 = b.read 0) (tag2 : a.read 2 = b.read 2) (tag3 : a.read 3 = b.read 3)
    (read : ∀ j : Fin 32, Machine.readsByte (a.read 0) j.val = true → a.read j = b.read j)
    (rest : a.read 0 = 0x10 → (a.read 1).getLsbD 0 = (b.read 1).getLsbD 0) : commandOfRecord a = commandOfRecord b := by
  have tag : half a 2 3 = half b 2 3 := half_congr tag2 tag3
  cases known : isCommandCode (a.read 0) with
  | false =>
    rw [commandOfRecord_of_unknown a known, commandOfRecord_of_unknown b (code ▸ known), tag, code]
  | true =>
    have mem : a.read 0 ∈ commandCodes := by simpa [isCommandCode] using known
    have agree {c : Byte} (e : a.read 0 = c) (j : Fin 32) (reads : Machine.readsByte c j.val = true) : a.read j = b.read j :=
      read j (by rw [e]; exact reads)
    have address {c : Byte} (e : a.read 0 = c) (reads : ∀ j : Fin 32, 8 ≤ j.val ∧ j.val ≤ 15 → Machine.readsByte c j.val = true) :
        addressField a = addressField b := addressField_congr fun j hj => agree e j (reads j hj)
    simp only [commandCodes, List.mem_cons, List.not_mem_nil, or_false] at mem
    rcases mem with e | e | e | e | e | e | e | e | e | e | e | e | e | e | e
    all_goals
      unfold commandOfRecord
      rw [← code, e]
    · show Instr.openSq _ _ _ _ _ _ = Instr.openSq _ _ _ _ _ _
      rw [tag, agree e 16 rfl, agree e 17 rfl, agree e 18 rfl, half_congr (agree e 20 rfl) (agree e 21 rfl),
        address e (by decide)]
    · show Instr.closeSq _ _ = Instr.closeSq _ _
      rw [tag, agree e 16 rfl]
    · show Instr.openCq _ _ _ _ _ _ _ = Instr.openCq _ _ _ _ _ _ _
      rw [tag, agree e 16 rfl, agree e 17 rfl, agree e 18 rfl, agree e 19 rfl,
        half_congr (agree e 20 rfl) (agree e 21 rfl), address e (by decide)]
    · show Instr.closeCq _ _ = Instr.closeCq _ _
      rw [tag, agree e 16 rfl]
    · show Instr.setWindow _ _ _ _ _ = Instr.setWindow _ _ _ _ _
      rw [tag, agree e 16 rfl, agree e 17 rfl, lengthField_congr fun j hj => agree e j (by revert j; decide),
        address e (by decide)]
    · show Instr.setChannel _ _ _ _ _ _ _ _ _ _ = Instr.setChannel _ _ _ _ _ _ _ _ _ _
      rw [tag, agree e 4 rfl, agree e 16 rfl, agree e 17 rfl, agree e 18 rfl, agree e 19 rfl, agree e 20 rfl,
        agree e 21 rfl, half_congr (agree e 22 rfl) (agree e 23 rfl), half_congr (agree e 24 rfl) (agree e 25 rfl)]
    · show Instr.cancel _ _ _ = Instr.cancel _ _ _
      rw [tag, agree e 16 rfl, half_congr (agree e 18 rfl) (agree e 19 rfl)]
    · show Instr.loadSteps _ _ _ _ _ _ = Instr.loadSteps _ _ _ _ _ _
      rw [tag, agree e 4 rfl, agree e 16 rfl, agree e 17 rfl, rest e, address e (by decide)]
    · show Instr.commitSteps _ _ = Instr.commitSteps _ _
      rw [tag, agree e 4 rfl]
    · show Instr.start _ _ _ = Instr.start _ _ _
      rw [tag, agree e 4 rfl, half_congr (agree e 16 rfl) (agree e 17 rfl)]
    · show Instr.stop _ _ _ _ = Instr.stop _ _ _ _
      rw [tag, agree e 4 rfl, agree e 16 rfl, half_congr (agree e 18 rfl) (agree e 19 rfl)]
    · show Instr.advance _ _ = Instr.advance _ _
      rw [tag, agree e 4 rfl]
    · show Instr.clearFault _ _ = Instr.clearFault _ _
      rw [tag, agree e 4 rfl]
    · show Instr.setDuty _ _ _ = Instr.setDuty _ _ _
      rw [tag, agree e 4 rfl, half_congr (agree e 16 rfl) (agree e 17 rfl)]
    · show Instr.readChannel _ _ _ = Instr.readChannel _ _ _
      rw [tag, agree e 4 rfl, address e (by decide)]
end

/-! ### Register writes (R188) -/

/-- The word a doorbell write spells: the queue id in its low half, the index in its high half. -/
theorem doorbell_fields (q : QueueId) (index : BitVec 10) :
    Fin.ofNat 8 (BitVec.ofNat 32 (q.val + 65536 * index.toNat)).toNat = q ∧
      (BitVec.ofNat 32 (q.val + 65536 * index.toNat)).extractLsb' 16 10 = index := by
  have fits : (BitVec.ofNat 32 (q.val + 65536 * index.toNat)).toNat = q.val + 65536 * index.toNat := by
    rw [BitVec.toNat_ofNat]
    omega
  constructor
  · apply Fin.ext
    show _ % 8 = q.val
    rw [fits]
    omega
  · apply BitVec.eq_of_toNat_eq
    rw [BitVec.extractLsb'_toNat, fits, Nat.shiftRight_eq_div_pow]
    omega

theorem registerWrite_of_ignored {offset : BitVec 6} (w : BitVec 32) (ignored : isIgnoredOffset offset = true) :
    registerWrite offset w = some (.registerWriteIgnored offset w) := by
  have others : ∀ o : BitVec 6, isIgnoredOffset o = true → ¬o.toNat % 4 ≠ 0 ∧ ¬o = 0x00 ∧ ¬o = 0x08 ∧ ¬o = 0x0C ∧ ¬o = 0x10 ∧
      ¬o = 0x14 ∧ ¬o = 0x18 ∧ ¬o = 0x1C ∧ ¬o = 0x20 ∧ ¬o = 0x24 ∧ ¬o = 0x28 := by decide
  obtain ⟨aligned, h00, h08, h0C, h10, h14, h18, h1C, h20, h24, h28⟩ := others offset ignored
  unfold registerWrite
  rw [if_neg aligned, if_neg h00, if_neg h08, if_neg h0C, if_neg h10, if_neg h14, if_neg h18, if_neg h1C, if_neg h20,
    if_neg h24, if_neg h28]

theorem registerWrite_registerWordOf (i : Instr) (offset : BitVec 6) (w : BitVec 32) (spelled : i.wellFormed = true)
    (word : registerWordOf i = some (offset, w)) : registerWrite offset w = some i := by
  cases i with
  | adminRegisterWrite r value => cases r <;> cases word <;> rfl
  | enable | halt =>
    cases word
    rfl
  | softReset run =>
    cases word
    cases run <;> rfl
  | post q tail =>
    cases word
    obtain ⟨queue, index⟩ := doorbell_fields q tail
    show some (Instr.post (Fin.ofNat 8 _) _) = _
    rw [queue, index]
  | release q head =>
    cases word
    obtain ⟨queue, index⟩ := doorbell_fields q head
    show some (Instr.release (Fin.ofNat 8 _) _) = _
    rw [queue, index]
  | vectorStatus clear =>
    cases word
    have back : (clear.setWidth 32).extractLsb' 0 4 = clear := by revert clear; decide
    show some (Instr.vectorStatus _) = _
    rw [back]
  | vectorMask mask =>
    cases word
    have back : (mask.setWidth 32).extractLsb' 0 4 = mask := by revert mask; decide
    show some (Instr.vectorMask _) = _
    rw [back]
  | registerWriteIgnored offset value =>
    cases word
    exact registerWrite_of_ignored _ spelled
  | _ => cases word

end Sys2Proof

namespace Sys2Proof.Machine

/-! ### Step records (R6, R185) -/

theorem legOf_eq_none (b : Byte) : legOf b = none ↔ 6 ≤ bitsOf b 0 3 := by
  unfold legOf
  split <;> simp_all
  omega

theorem legOf_eq_some {b : Byte} {l : LegState} (h : legOf b = some l) : l.toCode = bitsOf b 0 3 := by
  unfold legOf at h
  split at h <;> cases h <;> simp_all [LegState.toCode]

theorem lineOf_eq_none (n : Nat) : lineOf n = none ↔ 3 ≤ n := by
  unfold lineOf
  split <;> simp <;> omega

theorem lineOf_eq_some {n : Nat} {l : LineId} (h : lineOf n = some l) : l.val = n := by
  unfold lineOf at h
  split at h
  · cases h
    rfl
  · cases h

theorem edgeOf_eq_none (n : Nat) : edgeOf n = none ↔ 3 ≤ n := by
  match n with
  | 0 | 1 | 2 => simp [edgeOf]
  | n + 3 => simp [edgeOf]

theorem edgeOf_eq_some {n : Nat} {e : EdgeKind} (h : edgeOf n = some e) : e.toCode = n := by
  unfold edgeOf at h
  split at h <;> cases h <;> rfl

theorem bitsOf_lt (b : Byte) (lo width : Nat) : bitsOf b lo width < 2 ^ width := Nat.mod_lt _ (Nat.two_pow_pos _)

theorem branchOf_eq_none (b : Table 16 Byte) : branchOf b = none ↔ (b.read 0).getLsbD 6 = true ∧ b.read 6 = 0 := by
  unfold branchOf
  rw [BitVec.toNat_eq]
  cases (b.read 0).getLsbD 6 with
  | false => simp
  | true => by_cases h : (b.read 6).toNat = 0 <;> simp [h]

theorem dutyOf_eq_none (b : Table 16 Byte) :
    dutyOf b = none ↔ (b.read 0).getLsbD 7 = true ∧ 4096 < half16 (b.read 8) (b.read 9) := by
  unfold dutyOf
  cases (b.read 0).getLsbD 7 with
  | false => simp
  | true => by_cases h : 4096 < half16 (b.read 8) (b.read 9) <;> simp [h]

theorem modeOf_eq_none (b : Table 16 Byte) :
    modeOf b = none ↔
      4 ≤ bitsOf (b.read 0) 0 3 ∨
      (bitsOf (b.read 0) 0 3 = 0 ∧ (3 ≤ bitsOf (b.read 12) 0 2 ∨ 3 ≤ bitsOf (b.read 12) 2 2 ∨ (b.read 15).toNat < 64)) ∨
      (bitsOf (b.read 0) 0 3 = 1 ∧ half16 (b.read 12) (b.read 13) = 0) ∨
      (bitsOf (b.read 0) 0 3 = 2 ∧ (b.read 12).toNat = 0) := by
  unfold modeOf
  split
  · rename_i sensed
    rw [sensed]
    rw [← lineOf_eq_none, ← edgeOf_eq_none]
    cases lineOf (bitsOf (b.read 12) 0 2) <;> cases edgeOf (bitsOf (b.read 12) 2 2) <;> simp
  · rename_i timed
    simp [timed]
  · rename_i scaled
    simp [scaled]
  · rename_i hosted
    simp [hosted]
  · rename_i h0 h1 h2 h3
    have := bitsOf_lt (b.read 0) 0 3
    generalize bitsOf (b.read 0) 0 3 = n at *
    have : 4 ≤ n := by
      by_contra small
      have : n = 0 ∨ n = 1 ∨ n = 2 ∨ n = 3 := by omega
      simp_all
    simp [this]

/-- A record is none exactly when one of its parts is. -/
theorem stepRecordOf_eq_none (b : Table 16 Byte) :
    stepRecordOf b = none ↔ modeOf b = none ∨ (legOf (b.read 1) = none ∨ legOf (b.read 2) = none ∨ legOf (b.read 3) = none) ∨
      branchOf b = none ∨ dutyOf b = none := by
  unfold stepRecordOf
  cases modeOf b with
  | none => simp
  | some mode =>
    cases legOf (b.read 1) with
    | none => simp
    | some a =>
      cases legOf (b.read 2) with
      | none => simp
      | some c =>
        cases legOf (b.read 3) with
        | none => simp
        | some d =>
          cases branchOf b with
          | none => simp
          | some x => cases dutyOf b <;> simp

/-- The parts of a valid record. -/
theorem stepRecordOf_eq_some {b : Table 16 Byte} {r : StepRecord} (h : stepRecordOf b = some r) :
    modeOf b = some r.mode ∧ (legOf (b.read 1) = some r.legs.a ∧ legOf (b.read 2) = some r.legs.b ∧ legOf (b.read 3) = some r.legs.c) ∧
      branchOf b = some r.branch ∧ dutyOf b = some r.duty ∧ r.next = Fin.ofNat 16 (bitsOf (b.read 4) 0 4) ∧
      r.report = (b.read 0).getLsbD 3 ∧ r.seed = (b.read 0).getLsbD 4 ∧ r.mark = (b.read 0).getLsbD 5 := by
  unfold stepRecordOf at h
  split at h
  · rename_i mode legA legB legC branch duty
    cases h
    exact ⟨mode, ⟨legA, legB, legC⟩, branch, duty, rfl, rfl, rfl, rfl⟩
  · cases h

/-- The mode of a valid record, by its code. -/
theorem modeOf_sensed {b : Table 16 Byte} {m : StepMode} (h : modeOf b = some m) (code : bitsOf (b.read 0) 0 3 = 0) :
    ∃ (line : LineId) (edge : EdgeKind),
      m = .sensed line edge (b.read 13).toNat (b.read 14).toNat (b.read 15).toNat ∧
      line.val = bitsOf (b.read 12) 0 2 ∧ edge.toCode = bitsOf (b.read 12) 2 2 := by
  simp only [modeOf, code] at h
  split at h
  · rename_i line edge hline hedge
    split at h
    · cases h
    · cases h
      exact ⟨line, edge, rfl, lineOf_eq_some hline, edgeOf_eq_some hedge⟩
  · cases h

theorem modeOf_timed {b : Table 16 Byte} {m : StepMode} (h : modeOf b = some m) (code : bitsOf (b.read 0) 0 3 = 1) :
    m = .timed (half16 (b.read 12) (b.read 13)) := by
  simp only [modeOf, code] at h
  split at h
  · cases h
  · cases h
    rfl

theorem modeOf_scaled {b : Table 16 Byte} {m : StepMode} (h : modeOf b = some m) (code : bitsOf (b.read 0) 0 3 = 2) :
    m = .scaled (b.read 12).toNat := by
  simp only [modeOf, code] at h
  split at h
  · cases h
  · cases h
    rfl

theorem modeOf_hosted {b : Table 16 Byte} {m : StepMode} (h : modeOf b = some m) (code : bitsOf (b.read 0) 0 3 = 3) :
    m = .hosted (half16 (b.read 12) (b.read 13)) := by
  simp only [modeOf, code] at h
  cases h
  rfl

theorem branchOf_absent {b : Table 16 Byte} {x : Option Branch} (h : branchOf b = some x) (absent : (b.read 0).getLsbD 6 = false) :
    x = none := by
  unfold branchOf at h
  rw [absent] at h
  cases h
  rfl

theorem branchOf_present {b : Table 16 Byte} {x : Option Branch} (h : branchOf b = some x) (present : (b.read 0).getLsbD 6 = true) :
    ∃ y, x = some y ∧ y.target.val = bitsOf (b.read 5) 0 4 ∧ y.count = (b.read 6).toNat := by
  unfold branchOf at h
  rw [present, if_pos rfl] at h
  split at h
  · cases h
  · cases h
    exact ⟨_, rfl, Nat.mod_eq_of_lt (bitsOf_lt (b.read 5) 0 4), rfl⟩

theorem dutyOf_eq_some {b : Table 16 Byte} {x : Option Nat} (h : dutyOf b = some x) :
    x = if (b.read 0).getLsbD 7 then some (half16 (b.read 8) (b.read 9)) else none := by
  unfold dutyOf at h
  split at h
  · rename_i present
    split at h
    · cases h
    · cases h
      rw [if_pos present]
  · rename_i absent
    cases h
    rw [if_neg absent]

/-! ### Written bytes (R187) -/

theorem bytesLE_two_tag (tag : BitVec 16) : bytesLE 2 tag.toNat = [tag.extractLsb' 0 8, tag.extractLsb' 8 8] := by
  have low : BitVec.ofNat 8 tag.toNat = tag.extractLsb' 0 8 := by
    apply BitVec.eq_of_toNat_eq
    simp
  have high : BitVec.ofNat 8 (tag.toNat / 256) = tag.extractLsb' 8 8 := by
    apply BitVec.eq_of_toNat_eq
    simp [Nat.shiftRight_eq_div_pow]
  rw [← low, ← high]
  rfl

theorem bytesLE_four (n : Nat) :
    bytesLE 4 n = [BitVec.ofNat 8 n, BitVec.ofNat 8 (n / 256), BitVec.ofNat 8 (n / 65536), BitVec.ofNat 8 (n / 16777216)] := by
  show [BitVec.ofNat 8 n, BitVec.ofNat 8 (n / 256), BitVec.ofNat 8 (n / 256 / 256), BitVec.ofNat 8 (n / 256 / 256 / 256)] = _
  rw [Nat.div_div_eq_div_mul, Nat.div_div_eq_div_mul]

/-- The kind byte of a record, by its pass marker. -/
theorem kindByte_eq (p : Bool) (kind : Nat) : kindByte p kind = if p then BitVec.ofNat 8 (kind + 128) else BitVec.ofNat 8 kind := by
  cases p <;> rfl

/-- Flags as the bits of a number, the first as bit 0. -/
def packFlags : List Bool → Nat
  | [] => 0
  | b :: rest => flagCode b + 2 * packFlags rest

theorem packFlags_testBit (l : List Bool) (i : Nat) : (packFlags l).testBit i = l.getD i false := by
  induction l generalizing i with
  | nil => simp [packFlags]
  | cons b rest ih =>
    cases i with
    | zero =>
      rw [Nat.testBit_zero]
      cases b <;> simp [packFlags, flagCode]
    | succ i =>
      have half : packFlags (b :: rest) / 2 = packFlags rest := by
        have flag : flagCode b ≤ 1 := by cases b <;> decide
        simp only [packFlags]
        omega
      rw [Nat.testBit_succ, half, ih]
      rfl

theorem levelCode_eq (l : Level) : levelCode l = flagCode (decide (l = .high)) := by cases l <;> rfl

theorem bank_val_eq (i : Fin 2) : i.val = flagCode (decide (i = 1)) := by revert i; decide

/-- The flags of a snapshot, from bit 0 up. -/
def Channel.snapshotFlags (ch : Channel) : List Bool :=
  [decide (ch.store.active = 1), ch.store.activeValid, ch.est.spanValid, ch.seq.held.isSome,
   decide (ch.sense.tripLine = .high), decide (ch.sense.accepted.read 0 = .high),
   decide (ch.sense.accepted.read 1 = .high), decide (ch.sense.accepted.read 2 = .high)]

theorem Channel.packFlags_snapshotFlags (ch : Channel) :
    ch.store.active.val + 2 * flagCode ch.store.activeValid + 4 * flagCode ch.est.spanValid +
      8 * flagCode ch.seq.held.isSome + 16 * levelCode ch.sense.tripLine +
      32 * levelCode (ch.sense.accepted.read 0) + 64 * levelCode (ch.sense.accepted.read 1) +
      128 * levelCode (ch.sense.accepted.read 2) = packFlags ch.snapshotFlags := by
  rw [bank_val_eq, levelCode_eq, levelCode_eq, levelCode_eq, levelCode_eq]
  simp only [Channel.snapshotFlags, packFlags]
  ring

theorem Channel.snapshot_eq (ch : Channel) : ch.snapshot =
    [BitVec.ofNat 8 ch.seq.state.toCode, BitVec.ofNat 8 (causeCode ch.seq.state.cause),
     BitVec.ofNat 8 (packFlags ch.snapshotFlags), BitVec.ofNat 8 ch.store.standby.toCode,
     BitVec.ofNat 8 ch.seq.currentStep.val, BitVec.ofNat 8 (stepCode ch.seq.loopOwner), BitVec.ofNat 8 ch.seq.loopCounter,
     BitVec.ofNat 8 ch.est.forcedCount] ++ bytesLE 4 ch.est.stepTimer ++ bytesLE 2 ch.est.reference ++
      bytesLE 2 ch.est.spanCounter ++ bytesLE 4 ch.seq.cycle ++ bytesLE 2 ch.pwm.duty ++ [BitVec.ofNat 8 ch.seq.lost] ++ zeros 9 := by
  unfold Channel.snapshot
  rw [ch.packFlags_snapshotFlags]
  rfl

theorem Channel.snapshot_flag (ch : Channel) {i : Nat} (h : i < 8) :
    (ch.snapshot.getD 2 0).getLsbD i = ch.snapshotFlags.getD i false := by
  rw [ch.snapshot_eq]
  show (BitVec.ofNat 8 (packFlags ch.snapshotFlags)).getLsbD i = _
  rw [BitVec.getLsbD_ofNat, packFlags_testBit, decide_eq_true h, Bool.true_and]

/-! ### The statements -/

/-- Settles O12: row by row there and back. -/
theorem commandRecordsDecodeBack : Obligations.CommandRecordsDecodeBack :=
  ⟨commandOfRecord_recordOf, registerWrite_registerWordOf⟩

/-- Settles O13: by the code, the decoder reading the named bytes alone. -/
theorem unreadBytesAreIgnored : Obligations.UnreadBytesAreIgnored := fun _ _ => commandOfRecord_congr

/-- Settles O14: part by part, and the load's failure read off the row. -/
theorem stepRecordFailsExactly : Obligations.StepRecordFailsExactly := by
  refine ⟨fun b => ?_, fun s c b l released loading answers invalid => ?_⟩
  · have line := bitsOf_lt (b.read 12) 0 2
    have edge := bitsOf_lt (b.read 12) 2 2
    have line_three : 3 ≤ bitsOf (b.read 12) 0 2 ↔ bitsOf (b.read 12) 0 2 = 3 := by omega
    have edge_three : 3 ≤ bitsOf (b.read 12) 2 2 ↔ bitsOf (b.read 12) 2 2 = 3 := by omega
    have factor : b.read 12 = 0 ↔ (b.read 12).toNat = 0 := BitVec.toNat_eq
    rw [stepRecordOf_eq_none, modeOf_eq_none, legOf_eq_none, legOf_eq_none, legOf_eq_none, branchOf_eq_none, dutyOf_eq_none,
      line_three, edge_three, factor]
    have order (mode sensed line edge timeout timed scaled legs branch duty : Prop) :
        (mode ∨ (sensed ∧ (line ∨ edge ∨ timeout)) ∨ timed ∨ scaled) ∨ legs ∨ branch ∨ duty ↔
          mode ∨ legs ∨ duty ∨ branch ∨ (sensed ∧ line) ∨ (sensed ∧ edge) ∨ (sensed ∧ timeout) ∨ timed ∨ scaled := by
      simp only [and_or_left, or_left_comm, or_comm]
    exact order _ _ _ _ _ _ _ _ _ _
  · show atEvent (fun u => u.loadRecordArrival c b) s = _
    rw [atEvent_of released]
    unfold State.loadRecordArrival
    rw [if_pos answers, loading]
    dsimp only
    unfold State.takeStepRecord
    rw [invalid]
    rfl

/-- Settles O15: part by part of a valid record. -/
theorem stepRecordHoldsItsFields : Obligations.StepRecordHoldsItsFields := by
  intro b r h
  obtain ⟨mode, ⟨legA, legB, legC⟩, branch, duty, next, report, seed, mark⟩ := stepRecordOf_eq_some h
  refine ⟨modeOf_sensed mode, modeOf_timed mode, modeOf_scaled mode, modeOf_hosted mode, legOf_eq_some legA, legOf_eq_some legB,
    legOf_eq_some legC, ?_, report, seed, mark, branchOf_absent branch, branchOf_present branch, dutyOf_eq_some duty⟩
  rw [next]
  exact Nat.mod_eq_of_lt (bitsOf_lt (b.read 4) 0 4)

/-- Settles O16: each record by its fields, the snapshot's flags bit by bit. -/
theorem writtenBytes : Obligations.WrittenBytes := by
  refine ⟨fun p tag sq head status detail => ?_, fun p r lost => ?_, fun p c cause => ?_, fun p q kind cause => ?_, ?_,
    fun ch => ?_⟩
  · show kindByte p 0 :: (bytesLE 1 status.toCode ++ bytesLE 2 tag.toNat ++ bytesLE 1 sq.val ++ zeros 1 ++ bytesLE 2 head ++
      bytesLE 4 detail ++ zeros 4) = _
    rw [bytesLE_two_tag, bytesLE_four, kindByte_eq]
    rfl
  · show kindByte p 1 :: _ = _
    rw [kindByte_eq]
    cases r with
    | mk channel stepLeft bank cause entered reference cycle span => cases entered <;> cases span <;> rfl
  · show kindByte p 2 :: _ = _
    rw [kindByte_eq]
    rfl
  · show kindByte p 3 :: _ = _
    rw [kindByte_eq]
    rfl
  · exact ⟨rfl, rfl, rfl, rfl, rfl, rfl, rfl, rfl, fun _ _ _ _ => ⟨rfl, rfl⟩⟩
  · refine ⟨?_, ?_, ⟨ch.snapshot_flag (by decide), ch.snapshot_flag (by decide), ch.snapshot_flag (by decide),
      ch.snapshot_flag (by decide), ch.snapshot_flag (by decide), ch.snapshot_flag (by decide), ch.snapshot_flag (by decide),
      ch.snapshot_flag (by decide)⟩, ?_⟩
    all_goals rw [ch.snapshot_eq, bytesLE_four, bytesLE_four]
    · rfl
    · rfl
    · cases ch.seq.loopOwner <;> exact ⟨rfl, rfl, rfl, rfl, rfl⟩

end Sys2Proof.Machine
end

section
/-! Fetched records, completions and offers: dispatch by its checks (R100, R131), the completion of a WORKING slot and the closing of its queue (R107, R124, R144), and what becomes of an offered report or notice (R93 to R96, R145, R146). -/

namespace Sys2Proof.Machine

variable {s : State}

/-! ### What settling leaves -/

@[simp] theorem State.settle_engine (s : State) : s.settle.engine = s.engine := by
  obtain ⟨sl, x, f, l, n, p, e⟩ := s.settle_frame
  rw [e]

/-! ### Dispatch (R100, R131) -/

/-- A row with a record's header is the dispatch of that record. -/
theorem exec_of_header {i : Instr} {code : CommandCode} {tag : BitVec 16} {channel : Byte}
    (header : headerOf i = some (code, tag, channel)) (spelled : i.wellFormed = true) (s : State) :
    ∃ owner, exec i s = atEvent (fun t => t.dispatch code tag channel owner) s := by
  cases i with
  | unknownCommand tag code =>
    cases header
    have unknown : isCommandCode code = false := by simpa [Instr.wellFormed] using spelled
    exact ⟨_, if_neg (by rw [unknown]; exact Bool.false_ne_true)⟩
  | loadSteps | commitSteps | start | stop | advance | clearFault | setDuty | readChannel | openSq | closeSq | openCq | closeCq
  | setWindow | setChannel | cancel =>
    cases header
    exact ⟨_, rfl⟩
  | _ => cases header

/-- The checks of R100 in order. -/
theorem State.dispatch_some {f : FetchRecord} (h : s.returning = some f) (code : CommandCode) (tag : BitVec 16) (channel : Byte)
    (owner : SlotId → State → State) :
    s.dispatch code tag channel owner =
      (let t := s.takeRecord f code tag channel
       if code.isUnknown then t.complete f.slot .invalidOpcode 0
       else if code.isAdminOnly && f.sq != 0 then t.complete f.slot .adminOnly 0
       else if code.readsChannel && (channelOf channel).isNone then t.complete f.slot .invalidChannel 0
       else owner f.slot t) := by
  unfold State.dispatch
  rw [h]

theorem channelOf_eq_none (b : Byte) : channelOf b = none ↔ 3 < b.toNat := by
  unfold channelOf
  split <;> simp <;> omega

/-! ### Completions (R107, R124, R144) -/

theorem Slot.usesSq_iff (y : Slot) (q : QueueId) : y.usesSq q = true ↔ y.sqId = some q := by
  cases y <;> simp [Slot.usesSq, Slot.sqId]

theorem State.sqInUse_iff (s : State) (q : QueueId) : s.sqInUse q = true ↔ ∃ k, (s.slot k).sqId = some q := by
  simp [State.sqInUse, Slot.usesSq_iff]

theorem State.complete_of_working {k : SlotId} {w : Working} (status : Status) (detail : Nat) (h : s.slot k = .working w) :
    s.complete k status detail = (s.finishSlot k status detail).closeIfDrained w.sq := by
  unfold State.complete
  rw [h]

theorem State.closeIfDrained_of_not_closing {q : QueueId} (h : ∀ x, (s.sq q).state ≠ .closing x) : s.closeIfDrained q = s := by
  unfold State.closeIfDrained
  split
  · rename_i x e
    exact absurd e (h x)
  all_goals rfl

theorem State.closeIfDrained_of_in_use {q : QueueId} (h : s.sqInUse q = true) : s.closeIfDrained q = s := by
  unfold State.closeIfDrained
  split
  · rw [if_pos h]
  all_goals rfl

theorem State.closeIfDrained_of_drained {q : QueueId} {j : SlotId} (closing : (s.sq q).state = .closing (some j))
    (unused : s.sqInUse q = false) :
    s.closeIfDrained q = (s.withSq q { s.sq q with state := .closed }).finishSlot j .success 0 := by
  unfold State.closeIfDrained
  rw [closing]
  dsimp only
  rw [if_neg (by rw [unused]; exact Bool.false_ne_true)]

/-- The blocks a WORKING slot's end leaves or changes (R107, R144). -/
theorem State.finishSlot_sq {k : SlotId} (status : Status) (detail : Nat) (q : QueueId) :
    (s.finishSlot k status detail).sq q = s.sq q := by
  obtain ⟨x, p, sl, e⟩ := s.finishSlot_frame k status detail
  rw [e]
  rfl

theorem State.finishSlot_slot {k : SlotId} {w : Working} (status : Status) (detail : Nat) (h : s.slot k = .working w) (i : SlotId) :
    (s.finishSlot k status detail).slot i = if i = k then .free else s.slot i := by
  rw [State.finishSlot_of_working status detail h]
  show (s.withSlot k .free).slot i = _
  rw [State.withSlot_slot]

theorem State.finishSlot_cq {k : SlotId} {w : Working} (status : Status) (detail : Nat) (h : s.slot k = .working w) (q : QueueId) :
    (s.finishSlot k status detail).cq q =
      if q = w.cq then (s.cq w.cq).afterCompletion (.commandDone w.tag w.sq (s.sq w.sq).head status detail) else s.cq q := by
  rw [State.finishSlot_of_working status detail h]
  show ((s.withSlot k .free).withCq w.cq _).cq q = _
  rw [State.withCq_cq]
  rfl

/-- The write that an accepted completion's CQ hands (R147). -/
theorem State.finishSlot_port {k : SlotId} {w : Working} (status : Status) (detail : Nat) (h : s.slot k = .working w)
    (opened : (s.cq w.cq).state = .opened) :
    (s.finishSlot k status detail).port =
      if s.engine.state ≠ .halting ∧ s.port.holds (.cqWrite w.cq) = false then
        (s.handed (.cqWrite w.cq) ((s.cq w.cq).base + BitVec.ofNat 64 (16 * (s.cq w.cq).tail))).port
      else s.port := by
  unfold State.finishSlot
  rw [h]
  show (s.takeCompletion w status detail).port = _
  unfold State.takeCompletion
  dsimp only
  rw [if_pos (by rw [opened]; rfl), State.appendRecord_eq]
  unfold State.writeHanded
  simp only [State.withCq_engine, State.withCq_cq_self, State.withCq_port, opened, true_and]
  by_cases hands : s.engine.state ≠ .halting ∧ s.port.holds (.cqWrite w.cq) = false
  · rw [if_pos ⟨hands.1, by simp, hands.2⟩, if_pos hands]
    rfl
  · rw [if_neg fun all => hands ⟨all.1, all.2.2⟩, if_neg hands]
    rfl

/-! ### Offers (R44, R93 to R96, R145, R146) -/

theorem State.accepts_eq_false (q : QueueId) (h : (s.cq q).state ≠ .opened ∨ s.engine.state = .halting) : s.accepts q = false := by
  rw [Bool.eq_false_iff]
  intro accepted
  obtain ⟨not_halting, opened, _⟩ := (s.accepts_iff q).1 accepted
  exact h.elim (fun closed => closed opened) not_halting

theorem State.heldOn_some {x : QueueId} (cause : FaultCause) (opened : (s.cq x).state = .opened) (not_halting : s.engine.state ≠ .halting) :
    s.heldOn (some x) cause = some { cause := cause, cq := x } := by
  simp [State.heldOn, opened, not_halting]

theorem State.heldOn_none {q : Option QueueId} (cause : FaultCause)
    (h : q = none ∨ s.engine.state = .halting ∨ ∃ x, q = some x ∧ (s.cq x).state ≠ .opened) : s.heldOn q cause = none := by
  rcases h with rfl | halting | ⟨x, rfl, closed⟩
  · rfl
  · cases q with
    | none => rfl
    | some x => simp [State.heldOn, halting]
  · simp [State.heldOn, closed]

theorem State.withChannel_held (c : ChannelId) (h : (s.channel c).seq.held = none) :
    s.withChannel c ((s.channel c).withHeld none) = s := by
  have same : (s.channel c).withHeld none = s.channel c := by
    unfold Channel.withHeld
    rw [← h]
  rw [same]
  exact congrArg (fun x => { s with channels := x }) (Table.write_read_self _ _)

theorem moreLost_eq (n : Nat) : moreLost n = min 255 (n + 1) := by
  unfold moreLost
  split <;> omega

/-! ### The statements -/

/-- Settles O17: the record taken field by field, then the three checks; without a returning read the end of a discarded one. -/
theorem recordIsTakenAndChecked : Obligations.RecordIsTakenAndChecked := by
  refine ⟨fun i code tag channel s u f age b header spelled released returning fetching hu => ?_,
    fun i code tag channel s header spelled released none_returns => ?_⟩
  · obtain ⟨owner, row⟩ := exec_of_header header spelled s
    have taken : s.settle.takeRecord f code tag channel = u := by
      rw [hu]
      unfold State.takeRecord
      rw [fetching]
      rfl
    rw [row, atEvent_of released, State.dispatch_some returning, taken]
    dsimp only
    refine ⟨rfl, fun unknown => ?_, fun known admin io => ?_, fun known admin reads above => ?_⟩
    · rw [if_pos unknown]
    · rw [if_neg (by rw [known]; exact Bool.false_ne_true), if_pos (by simp [admin, io])]
    · rw [if_neg (by rw [known]; exact Bool.false_ne_true), if_neg, if_pos]
      · rw [reads, (channelOf_eq_none channel).2 above]
        rfl
      · intro refused
        obtain ⟨is_admin, io⟩ := Bool.and_eq_true_iff.1 refused
        rw [admin is_admin] at io
        cases io
  · obtain ⟨owner, row⟩ := exec_of_header header spelled s
    rw [row, atEvent_of released, State.dispatch_none none_returns]
    exact ⟨fun q discarded alone => by rw [State.dropDiscardedFetch_eq _ q discarded alone],
      fun none_discarded => by rw [State.dropDiscardedFetch_none _ none_discarded]⟩

/-- Settles O18: the slot's end, with no queue to close; in an OPEN CQ the port by whether the write is handed. -/
theorem completionIsTaken : Obligations.CompletionIsTaken := by
  intro s k w status detail working not_closing
  have ended : s.complete k status detail = s.finishSlot k status detail := by
    rw [State.complete_of_working status detail working]
    exact State.closeIfDrained_of_not_closing fun x => by rw [State.finishSlot_sq]; exact not_closing x
  rw [ended]
  refine ⟨fun opened => ⟨(s.finishSlot k status detail).port, ?_, s.finishSlot_begun k status detail, fun hands => ?_, fun holds => ?_⟩,
    fun closed => ?_⟩
  · have finished := State.finishSlot_of_working status detail working
    unfold CqContext.afterCompletion at finished
    rw [if_pos opened] at finished
    exact finished
  · rw [State.finishSlot_port status detail working opened, if_pos hands]
    rfl
  · rw [State.finishSlot_port status detail working opened, if_neg]
    rintro ⟨not_halting, free⟩
    rcases holds with halting | held
    · exact not_halting halting
    · rw [free] at held
      cases held
  · have not_opened : ((s.cq w.cq).state == .opened) = false := by simpa using closed
    unfold State.finishSlot
    rw [working]
    dsimp only
    unfold State.takeCompletion
    rw [not_opened]
    rfl

/-- Settles O19: by whether another slot holds the queue's id once the completed one is FREE; then the two completions by their CQs. -/
theorem lastCompletionClosesQueue : Obligations.LastCompletionClosesQueue := by
  intro s k j w v status detail hk hj other_queue closing
  have distinct : j ≠ k := by
    rintro rfl
    rw [hk] at hj
    cases hj
    exact other_queue rfl
  have slots := State.finishSlot_slot status detail hk
  have closing' : ((s.finishSlot k status detail).sq w.sq).state = .closing (some j) := by
    rw [State.finishSlot_sq]
    exact closing
  have hj' : (s.finishSlot k status detail).slot j = .working v := by rw [slots, if_neg distinct]; exact hj
  rw [State.complete_of_working status detail hk]
  refine ⟨fun ⟨i, other, uses⟩ => ?_, fun last => ?_⟩
  · rw [State.closeIfDrained_of_in_use ((State.sqInUse_iff _ _).2 ⟨i, by rw [slots, if_neg other]; exact uses⟩)]
    exact ⟨State.finishSlot_sq status detail w.sq, hj'⟩
  · have unused : (s.finishSlot k status detail).sqInUse w.sq = false := by
      rw [Bool.eq_false_iff, ne_eq, State.sqInUse_iff]
      rintro ⟨i, uses⟩
      rw [slots] at uses
      split at uses
      · cases uses
      · exact last i ‹_› uses
    rw [State.closeIfDrained_of_drained closing' unused]
    have hj'' : ((s.finishSlot k status detail).withSq w.sq
        { (s.finishSlot k status detail).sq w.sq with state := .closed }).slot j = .working v := hj'
    have cq := State.finishSlot_cq .success 0 hj''
    have cq' (q : QueueId) : ((s.finishSlot k status detail).withSq w.sq
        { (s.finishSlot k status detail).sq w.sq with state := .closed }).cq q = _ := State.finishSlot_cq status detail hk q
    have head : (((s.finishSlot k status detail).withSq w.sq
        { (s.finishSlot k status detail).sq w.sq with state := .closed }).sq v.sq).head = (s.sq v.sq).head := by
      rw [State.withSq_sq_ne _ _ _ _ other_queue, State.finishSlot_sq]
    refine ⟨?_, ?_, ?_, fun i not_k not_j => ?_, fun opened opened_v other_cq => ?_, fun closed opened_v => ?_,
      fun opened same_cq => ?_⟩
    · rw [State.finishSlot_sq, State.withSq_sq_self, State.finishSlot_sq]
    · rw [State.finishSlot_slot .success 0 hj'', if_neg distinct.symm]
      exact (slots k).trans (if_pos rfl)
    · rw [State.finishSlot_slot .success 0 hj'', if_pos rfl]
    · rw [State.finishSlot_slot .success 0 hj'', if_neg not_j]
      exact (slots i).trans (if_neg not_k)
    · rw [cq, cq, if_neg other_cq.symm, if_pos rfl, head, cq', cq', if_pos rfl, if_neg other_cq]
      exact ⟨if_pos opened, if_pos opened_v⟩
    · have other_cq : v.cq ≠ w.cq := fun same => closed (same ▸ opened_v)
      rw [cq, cq, if_neg other_cq.symm, if_pos rfl, head, cq', cq', if_pos rfl, if_neg other_cq]
      exact ⟨if_neg closed, if_pos opened_v⟩
    · rw [cq, if_pos same_cq.symm, head, cq', if_pos same_cq]
      show (if (s.cq w.cq).state = .opened then (if (s.cq w.cq).state = .opened then _ else _) ++ _ else _) = _
      rw [if_pos opened, if_pos opened, List.append_assoc]
      rfl

/-- Settles O20: offer by offer, by the report CQ, the held notice, the room and the engine. -/
theorem offersAreTaken : Obligations.OffersAreTaken := by
  intro s c r cause q kind why
  refine ⟨fun x => ?_, fun none_named => ?_, fun x named accepted none_held => ?_, fun x named refused => ?_,
    fun none_held none_named => ?_, fun x none_held named => ⟨fun accepted => ?_, fun refused opened not_halting => ?_, fun lost => ?_⟩,
    fun h held => ⟨fun x named opened not_halting => ?_, fun lost => ?_⟩, fun accepted => if_pos accepted,
    fun refused => if_neg (by rw [refused]; exact Bool.false_ne_true), fun x record => s.appendRecord_eq x record,
    fun none_held => ?_, fun h held => ⟨fun refused => ?_, fun same accepted => ?_⟩⟩
  · rw [State.accepts_iff, CqContext.hasRoom_iff]
    rfl
  · unfold State.offerReport
    rw [none_named]
  · unfold State.offerReport
    rw [named]
    exact if_pos (by simp [accepted, none_held])
  · have not_taken : ¬(s.accepts x && (s.channel c).seq.held.isNone) = true := by
      intro taken
      obtain ⟨accepted, none_held⟩ := Bool.and_eq_true_iff.1 taken
      rcases refused with refused | held
      · rw [accepted] at refused
        cases refused
      · exact held (Option.isNone_iff_eq_none.1 none_held)
    unfold State.offerReport
    rw [named]
    dsimp only
    rw [if_neg not_taken]
    refine ⟨fun halting => if_pos (by rw [halting]; rfl), fun not_halting => ?_⟩
    rw [if_neg (by simpa using not_halting), moreLost_eq]
  · unfold State.offerChannelNotice
    rw [none_held, none_named]
  · unfold State.offerChannelNotice
    rw [none_held, named]
    exact if_pos accepted
  · unfold State.offerChannelNotice
    rw [none_held, named]
    dsimp only
    rw [if_neg (by rw [refused]; exact Bool.false_ne_true), State.heldOn_some cause opened not_halting]
  · unfold State.offerChannelNotice
    rw [none_held, named]
    dsimp only
    rw [if_neg (by rw [State.accepts_eq_false x lost]; exact Bool.false_ne_true), State.heldOn_none cause, s.withChannel_held c none_held]
    exact .inr (lost.symm.imp id fun closed => ⟨x, rfl, closed⟩)
  · unfold State.offerChannelNotice
    rw [held, named]
    dsimp only
    rw [State.heldOn_some cause opened not_halting]
  · unfold State.offerChannelNotice
    rw [held]
    dsimp only
    rw [State.heldOn_none cause lost]
  · unfold State.offerHeld
    rw [none_held]
  · unfold State.offerHeld
    rw [held]
    refine if_neg fun taken => ?_
    obtain ⟨same, accepted⟩ := Bool.and_eq_true_iff.1 taken
    rcases refused with other | refused
    · exact other (eq_of_beq same)
    · rw [accepted] at refused
      cases refused
  · unfold State.offerHeld
    rw [held]
    exact if_pos (by simp [same, accepted])

end Sys2Proof.Machine
end

section
/-! The step store's commands and events (chapter 1): the checks of LOAD_STEPS and COMMIT_STEPS in order, and what the ends of load reads do. -/

namespace Sys2Proof.Machine

variable {s : State}

/-- A channel command whose record passes R100 answers its owner's work on the channel. -/
theorem State.Dispatches.onChannel {u : State} {code : CommandCode} {tag : BitVec 16} {channel : Byte} {k : SlotId} {c : ChannelId}
    (h : s.Dispatches code tag channel k u) (hc : channelOf channel = some c) (owner : ChannelId → SlotId → State → State) :
    atEvent (fun t => t.dispatch code tag channel (Machine.onChannel channel owner)) s = .next (owner c k u) := by
  rw [h.answer, onChannel_of hc]

/-! ### Load reads -/

theorem State.issueLoadRead_of_loading {c : ChannelId} {l : Load} (h : (s.channel c).store.standby = .loading l) :
    s.issueLoadRead c =
      if s.port.holds (.load c) then s else s.handed (.load c) (l.source + BitVec.ofNat 64 (16 * l.buffer.length)) := by
  unfold State.issueLoadRead
  rw [h]
  rfl

theorem State.issueLoadRead_of_not_loading {c : ChannelId} (h : ∀ l, (s.channel c).store.standby ≠ .loading l) :
    s.issueLoadRead c = s := by
  unfold State.issueLoadRead
  split
  · rename_i l loading
    exact absurd loading (h l)
  all_goals rfl

/-- A requester acts on no transaction whose result is discarded. -/
theorem Port.not_fails_of_hasDiscarded {p : Port} {r : Requester} (h : p.hasDiscarded r = true) : p.fails r = false := by
  obtain ⟨t, found, discarded⟩ := (p.hasDiscarded_iff r).1 h
  unfold Port.fails
  rw [found]
  simp [discarded]

theorem Port.not_answers_of_not_fails {p : Port} {r : Requester} (h : p.fails r = false) : p.answers r = false := by
  rw [Bool.eq_false_iff] at h ⊢
  exact fun answers => h (Port.fails_of_answers answers)

theorem Port.not_answers_of_hasDiscarded {p : Port} {r : Requester} (h : p.hasDiscarded r = true) : p.answers r = false :=
  Port.not_answers_of_not_fails (Port.not_fails_of_hasDiscarded h)

/-- Outside a halt a transaction's end with its result discarded is its end alone (R177). -/
theorem State.endedUnused_of_not_halting (r : Requester) (h : s.engine.state ≠ .halting) : s.endedUnused r = s.ended r :=
  if_neg fun last => h last.1

/-- The first read of a load that waited for the read of another that was cancelled (R11, R15). -/
theorem State.endOldLoadRead_eq {c : ChannelId} {t : State}
    (none_waits : (∀ l, (s.channel c).store.standby ≠ .loading l) → t = s.endedUnused (.load c))
    (waits : ∀ l, (s.channel c).store.standby = .loading l → s.engine.state ≠ .halting ∧
      t = if (s.ended (.load c)).port.holds (.load c) then s.ended (.load c)
        else (s.ended (.load c)).handed (.load c) (l.source + BitVec.ofNat 64 (16 * l.buffer.length))) :
    s.endOldLoadRead c = t := by
  have channel : (s.endDiscarded (.load c)).channel c = s.channel c := s.endDiscarded_channel _ _
  unfold State.endOldLoadRead
  by_cases loads : ∃ l, (s.channel c).store.standby = .loading l
  · obtain ⟨l, loading⟩ := loads
    obtain ⟨not_halting, e⟩ := waits l loading
    rw [State.issueLoadRead_of_loading (channel ▸ loading), e, State.endDiscarded_eq, State.endedUnused_of_not_halting _ not_halting]
  · rw [State.issueLoadRead_of_not_loading (fun l => by rw [channel]; exact not_exists.1 loads l), State.endDiscarded_eq,
      none_waits (not_exists.1 loads)]

theorem State.loadRecordArrival_of_answers {c : ChannelId} {l : Load} (bytes : Table 16 Byte)
    (answers : s.port.answers (.load c) = true) (loading : (s.channel c).store.standby = .loading l) :
    s.loadRecordArrival c bytes = (s.ended (.load c)).takeStepRecord c l bytes := by
  unfold State.loadRecordArrival
  rw [if_pos answers, loading]
  rfl

theorem State.loadRecordArrival_of_discarded {c : ChannelId} (bytes : Table 16 Byte)
    (discarded : s.port.hasDiscarded (.load c) = true) : s.loadRecordArrival c bytes = s.endOldLoadRead c := by
  unfold State.loadRecordArrival
  rw [if_neg (by rw [Port.not_answers_of_hasDiscarded discarded]; exact Bool.false_ne_true), if_pos discarded]

theorem State.loadReadBusError_of_fails {c : ChannelId} {l : Load} (fails : s.port.fails (.load c) = true)
    (loading : (s.channel c).store.standby = .loading l) :
    s.loadReadBusError c = (s.ended (.load c)).failLoad c l .busError 0 := by
  unfold State.loadReadBusError
  rw [if_pos fails, loading]
  rfl

theorem State.loadReadBusError_of_discarded {c : ChannelId} (discarded : s.port.hasDiscarded (.load c) = true) :
    s.loadReadBusError c = s.endOldLoadRead c := by
  unfold State.loadReadBusError
  rw [if_neg (by rw [Port.not_fails_of_hasDiscarded discarded]; exact Bool.false_ne_true), if_pos discarded]

/-! ### Checks -/

theorem loadFieldsValid_iff (first count : Nat) (source : Addr) :
    loadFieldsValid first count source = true ↔
      1 ≤ count ∧ count ≤ 16 ∧ first ≤ 15 ∧ first + count ≤ 16 ∧ source.toNat % 16 = 0 := by
  simp [loadFieldsValid, inRange, isAligned, and_assoc]

theorem Standby.priorOf_eq_some {x : Standby} {p : Prior} (h : x.priorOf = some p) :
    (x = .empty ∨ x = .ready) ∧ p = if x = .empty then .empty else .ready := by
  cases x <;> cases h
  · exact ⟨.inl rfl, rfl⟩
  · exact ⟨.inr rfl, rfl⟩

theorem Standby.priorOf_eq_none {x : Standby} (h : x.priorOf = none) : x ≠ .empty ∧ x ≠ .ready := by
  cases x <;> cases h <;> exact ⟨nofun, nofun⟩

/-- An accepted load is read from its first record on. -/
theorem State.issueLoadRead_of_accepted {c : ChannelId} {l : Load} (empty : l.buffer = []) :
    (s.withChannel c ((s.channel c).withStandby (.loading l))).issueLoadRead c =
      (let t := s.withChannel c ((s.channel c).withStandby (.loading l))
       if s.port.holds (.load c) then t else t.handed (.load c) l.source) := by
  rw [State.issueLoadRead_of_loading (l := l) (by rw [State.withChannel_channel_self]; rfl), empty]
  simp

/-- What is done by whether a step is current, in the cases of the channel state (R20). -/
theorem ChannelState.ite_isOn {α : Type} (x : ChannelState) (running resting : α) :
    (if x.isOn then running else resting) =
      match x with
      | .running | .stopping _ => running
      | .idle | .fault _ => resting := by
  cases x <;> rfl

/-! ### The statements -/

/-- Settles O21: check by check, and the accepted load's first read. -/
theorem loadStepsIsChecked : Obligations.LoadStepsIsChecked := by
  intro s u k c tag channel first count clearRest source dispatched hc
  refine (dispatched.onChannel hc (State.loadSteps first.toNat count.toNat clearRest source)).trans (congrArg Host.Outcome.next ?_)
  unfold State.loadSteps
  by_cases valid : loadFieldsValid first.toNat count.toNat source = true
  · rw [if_neg (by simp [valid]), if_neg (not_not.2 ((loadFieldsValid_iff _ _ _).1 valid))]
    cases prior : (u.channel c).store.standby.priorOf with
    | none => rw [if_pos (Standby.priorOf_eq_none prior)]
    | some p =>
      obtain ⟨takes, e⟩ := Standby.priorOf_eq_some prior
      rw [if_neg fun refused => takes.elim refused.1 refused.2]
      dsimp only
      cases covered : inOneWindow u.windows .read source.toNat (16 * count.toNat) with
      | false => rfl
      | true =>
        rw [if_neg (by decide), if_neg (by decide), State.issueLoadRead_of_accepted rfl, e]
  · rw [if_pos (by simp [valid]), if_pos fun fields => valid ((loadFieldsValid_iff _ _ _).2 fields)]

/-- Settles O22: by whether the read answers a load in flight, is of one discarded, or neither. -/
theorem loadReadsEnd : Obligations.LoadReadsEnd := by
  refine ⟨fun s c bytes l released loading => ⟨fun answers => ⟨fun invalid => ?_, fun r valid more => ?_, fun r valid last => ?_⟩,
    fun fails => ?_⟩, fun s c bytes released => ⟨fun discarded t none_waits waits => ⟨?_, ?_⟩, fun kept => ⟨fun silent => ?_, fun silent => ?_⟩⟩⟩
  · refine (atEvent_of (f := fun u => u.loadRecordArrival c bytes) released).trans (congrArg Host.Outcome.next ?_)
    rw [State.loadRecordArrival_of_answers bytes answers loading]
    unfold State.takeStepRecord
    rw [invalid]
    rfl
  · refine (atEvent_of (f := fun u => u.loadRecordArrival c bytes) released).trans (congrArg Host.Outcome.next ?_)
    rw [State.loadRecordArrival_of_answers bytes answers loading]
    unfold State.takeStepRecord
    rw [valid]
    dsimp only
    rw [if_neg more, State.issueLoadRead_of_loading (l := { l with buffer := l.buffer ++ [r] })
      (by rw [State.withChannel_channel_self]; rfl)]
    simp only [List.length_append, List.length_singleton]
    rfl
  · refine ⟨l.write (l.buffer ++ [r]) (s.settle.channel c).store.standbyBank, Load.read_write l _ _, ?_⟩
    refine (atEvent_of (f := fun u => u.loadRecordArrival c bytes) released).trans (congrArg Host.Outcome.next ?_)
    rw [State.loadRecordArrival_of_answers bytes answers loading]
    unfold State.takeStepRecord
    rw [valid]
    dsimp only
    rw [if_pos last]
    rfl
  · refine (atEvent_of (f := fun u => u.loadReadBusError c) released).trans (congrArg Host.Outcome.next ?_)
    rw [State.loadReadBusError_of_fails fails loading]
    rfl
  · refine (atEvent_of (f := fun u => u.loadRecordArrival c bytes) released).trans (congrArg Host.Outcome.next ?_)
    rw [State.loadRecordArrival_of_discarded bytes discarded]
    exact State.endOldLoadRead_eq none_waits fun l loading => by rw [State.settle_engine]; exact waits l loading
  · refine (atEvent_of (f := fun u => u.loadReadBusError c) released).trans (congrArg Host.Outcome.next ?_)
    rw [State.loadReadBusError_of_discarded discarded]
    exact State.endOldLoadRead_eq none_waits fun l loading => by rw [State.settle_engine]; exact waits l loading
  · refine (atEvent_of (f := fun u => u.loadRecordArrival c bytes) released).trans (congrArg Host.Outcome.next ?_)
    unfold State.loadRecordArrival
    rw [if_neg (by rw [silent]; exact Bool.false_ne_true), if_neg (by rw [kept]; exact Bool.false_ne_true)]
  · refine (atEvent_of (f := fun u => u.loadReadBusError c) released).trans (congrArg Host.Outcome.next ?_)
    unfold State.loadReadBusError
    rw [if_neg (by rw [silent]; exact Bool.false_ne_true), if_neg (by rw [kept]; exact Bool.false_ne_true)]

/-- Settles O24: check by check, and the swap by the channel state. -/
theorem commitStepsIsChecked : Obligations.CommitStepsIsChecked := by
  intro s u k c tag channel dispatched hc
  refine (dispatched.onChannel hc State.commitSteps).trans (congrArg Host.Outcome.next ?_)
  unfold State.commitSteps
  dsimp only
  split
  · rfl
  · cases Bank.lowestMissing (u.channel c).store.standbyBank with
    | some i => rfl
    | none => exact ChannelState.ite_isOn (u.channel c).seq.state _ _

end Sys2Proof.Machine
end

section
/-! A channel's run from START to its end (R24, R25, R81, R82, R97), the marks, windows and limits that end its steps (R30, R31, R33, R35, R36, R39), and the statements on them settled. -/

namespace Sys2Proof.Machine

/-! ### Modes and windows of the current step -/

theorem Channel.inMode_of_off {ch : Channel} (off : ch.isOn = false) (p : StepMode → Bool) : ch.inMode p = false := by
  simp [Channel.inMode, Channel.currentMode, off]

theorem Channel.currentMode_of_on {ch : Channel} {r : StepRecord} (on : ch.isOn = true) (current : ch.current = some r) :
    ch.currentMode = some r.mode := by
  simp [Channel.currentMode, on, current]

theorem Channel.inMode_of_on {ch : Channel} {r : StepRecord} (on : ch.isOn = true) (current : ch.current = some r)
    (p : StepMode → Bool) : ch.inMode p = p r.mode := by
  simp [Channel.inMode, Channel.currentMode_of_on on current]

theorem Channel.tripActive_iff (ch : Channel) : ch.tripActive = true ↔ ch.sense.tripLine = ch.settings.tripLevel := beq_iff_eq

section
variable {ch : Channel} {r : StepRecord} (on : ch.isOn = true) (current : ch.current = some r)
include on current

theorem Channel.timeoutDue_iff (sensed : r.mode.isSensed = true) :
    ch.timeoutDue = true ↔ ch.seq.edgeTaken = false ∧ ch.seq.windows.timeout ≤ ch.est.stepTimer := by
  simp [Channel.timeoutDue, Channel.inMode_of_on on current, sensed]

theorem Channel.delayDue_iff (sensed : r.mode.isSensed = true) :
    ch.delayDue = true ↔ ch.seq.edgeTaken = true ∧ ch.seq.edgeTimer + ch.seq.windows.delay ≤ ch.est.stepTimer := by
  simp [Channel.delayDue, Channel.inMode_of_on on current, sensed]

theorem Channel.lengthDue_iff (timed : r.mode.hasLength = true) :
    ch.lengthDue = true ↔ ch.seq.windows.length ≤ ch.est.stepTimer := by
  simp [Channel.lengthDue, Channel.inMode_of_on on current, timed]

theorem Channel.hostLimitDue_iff (hosted : r.mode.isHosted = true) :
    ch.hostLimitDue = true ↔ ch.seq.windows.hostLimit ≠ 0 ∧ ch.seq.windows.hostLimit ≤ ch.est.stepTimer := by
  simp [Channel.hostLimitDue, Channel.inMode_of_on on current, hosted]

end

theorem Channel.deadlineDue_of_stopping {ch : Channel} {g : Graceful} (stopping : ch.seq.state = .stopping g) :
    ch.deadlineDue = true ↔ g.deadline ≠ 0 ∧ g.deadline ≤ g.count := by
  simp [Channel.deadlineDue, stopping]

/-! ### The end of a run (R82) -/

variable {s : State} {c : ChannelId}

theorem State.endRun_of_swap {k : SlotId} (swap : (s.channel c).store.standby = .swapPending k) :
    s.endRun c = (s.withChannel c { (s.channel c).resting .idle with
      est := { ((s.channel c).resting .idle).est with forcedCount := 0 },
      store := (s.channel c).store.exchanged .ready,
      seq := { ((s.channel c).resting .idle).seq with loopOwner := none, loopCounter := 0 } }).complete k .success 0 := by
  have kept : ((s.channel c).leave .idle).clearForced.store.standby = .swapPending k := swap
  unfold State.endRun
  dsimp only
  rw [kept]
  rfl

theorem State.endRun_of_no_swap (no_swap : ∀ k, (s.channel c).store.standby ≠ .swapPending k) :
    s.endRun c = s.withChannel c { (s.channel c).resting .idle with
      est := { ((s.channel c).resting .idle).est with forcedCount := 0 } } := by
  have kept : ((s.channel c).leave .idle).clearForced.store.standby = (s.channel c).store.standby := rfl
  unfold State.endRun
  dsimp only
  rw [kept]
  cases h : (s.channel c).store.standby with
  | swapPending k => exact absurd h (no_swap k)
  | empty | ready | loading l => rfl

theorem Channel.endedRun_isOn (ch : Channel) : ch.endedRun.isOn = false := by
  unfold Channel.isOn
  rw [Channel.endedRun_state]
  rfl

theorem Channel.endedRun_reference (ch : Channel) : ch.endedRun.est.reference = ch.est.reference := by
  unfold Channel.endedRun
  split <;> rfl

theorem Channel.endedRun_cycle (ch : Channel) : ch.endedRun.seq.cycle = ch.seq.cycle := by
  unfold Channel.endedRun
  split <;> rfl

/-! ### What an advance takes at a mark (R39) -/

theorem State.leaveStep_of_stopping {r : StepRecord} {g : Graceful} (mark : r.mark = true)
    (stopping : (s.channel c).seq.state = .stopping g) :
    s.leaveStep c r = (s.endRun c).complete g.slot .success 0 := by
  unfold State.leaveStep
  dsimp only
  rw [mark, stopping]
  rfl

theorem State.leaveStep_of_swap {r : StepRecord} {k : SlotId} (mark : r.mark = true)
    (running : (s.channel c).seq.state = .running) (swap : (s.channel c).store.standby = .swapPending k) :
    s.leaveStep c r = (s.withChannel c (s.channel c).swapAtMark).complete k .success 0 := by
  unfold State.leaveStep
  dsimp only
  rw [mark, running, swap]
  rfl

/-- The swap enters step 0 of the bank that waited (R39). -/
theorem Channel.swapAtMark_eq {ch : Channel} {e : StepRecord} (first : ch.store.standbyBank.read 0 = some e) :
    ch.swapAtMark = Channel.entering
      { ch with store := ch.store.exchanged .ready, seq := { ch.seq with loopOwner := none, loopCounter := 0 } }
      0 e (windowsOf ch.est.reference e.mode) :=
  Channel.enter_eq_entering (ch := { ch.clearLoop with store := ch.store.exchange .ready }) first

/-- The step entered by an advance, or NONE where it left a mark with a graceful stop pending (R43). -/
theorem Channel.left_entered (ch : Channel) (r : StepRecord) (on : ch.isOn = true) :
    (ch.left r).entered =
      match ch.seq.state, r.mark with
      | .stopping _, true => none
      | _, _ => some (ch.left r).seq.currentStep := by
  have stays (now : Channel) (state : now.seq.state = ch.seq.state) : now.entered = some now.seq.currentStep := by
    unfold Channel.entered Channel.isOn
    rw [state]
    exact if_pos on
  have follows : (ch.follow r).seq.state = ch.seq.state := by
    rw [Channel.follow_eq_enter, Channel.enter_state]
  have ended : ch.endedRun.isOn = false := ch.endedRun_isOn
  have swaps : ch.swapAtMark.seq.state = ch.seq.state := Channel.enter_state _ _
  unfold Channel.left
  cases mark : r.mark with
  | false => cases ch.seq.state <;> exact stays _ follows
  | true =>
    cases state : ch.seq.state with
    | stopping g =>
      unfold Channel.entered
      exact if_neg (ne_true_of_eq_false ended)
    | idle | fault x =>
      unfold Channel.isOn at on
      rw [state] at on
      cases on
    | running =>
      cases ch.store.standby with
      | swapPending k => exact stays _ swaps
      | empty | ready | loading l => exact stays _ follows

/-- The detail of a successful ADVANCE (R36). -/
theorem State.advanceDetail_of_advanceStep {r : StepRecord} (cause : AdvanceCause) (on : (s.channel c).isOn = true)
    (current : (s.channel c).current = some r) :
    ((s.advanceStep c cause).channel c).advanceDetail =
      match (s.channel c).seq.state, r.mark with
      | .stopping _, true => 16
      | _, _ => ((s.advanceStep c cause).channel c).seq.currentStep.val := by
  obtain ⟨lost, _, channel⟩ := State.advanceStep_channel s c cause r current
  have entered := Channel.left_entered ((((s.channel c).seeded r).countMark r)) r
    (by rw [Channel.countMark_seeded]; exact on)
  have state : ((((s.channel c).seeded r).countMark r)).seq.state = (s.channel c).seq.state := by
    rw [Channel.countMark_seeded]
  rw [state] at entered
  rw [channel, if_pos rfl]
  unfold Channel.advanceDetail
  rw [show ∀ now : Channel, (now.withLost lost).entered = now.entered from fun _ => rfl, entered]
  cases (s.channel c).seq.state <;> cases r.mark <;> rfl

/-! ### The statements -/

/-- Settles O25: check by check, and step 0 entered from the initial reference. -/
theorem startIsChecked : Obligations.StartIsChecked := by
  intro s u k c tag channel reference dispatched hc
  have answer := dispatched.onChannel hc (State.start reference.toNat)
  have nonzero (h : reference ≠ 0) : ¬reference.toNat = 0 := fun e => h (BitVec.eq_of_toNat_eq e)
  refine ⟨?_, fun ref conflict => ?_, fun ref idle valid trip => ?_, fun r ref idle valid trip first => ?_⟩
  · rintro rfl
    exact answer
  all_goals refine answer.trans (congrArg Host.Outcome.next ?_)
  all_goals unfold State.start
  all_goals dsimp only
  all_goals rw [if_neg (nonzero ref)]
  · rcases conflict with busy | absent
    · rw [if_pos busy]
    · rw [absent]
      split <;> rfl
  · rw [if_neg (not_not.2 idle), valid, if_neg (by decide), if_pos ((Channel.tripActive_iff _).2 trip)]
  · rw [if_neg (not_not.2 idle), valid, if_neg (by decide), if_neg (mt (Channel.tripActive_iff _).1 trip)]
    unfold Channel.started
    rw [Channel.enter_eq_entering (by exact first)]

/-- Settles O28: by what is pending at the mark. -/
theorem advanceTakesWhatIsPendingAtAMark : Obligations.AdvanceTakesWhatIsPendingAtAMark := by
  intro s c cause ch now r ref hch current mark href hnow
  subst hch
  have counted : ((s.channel c).seeded r).countMark r = now := by
    rw [Channel.countMark_seeded, hnow, href]
    unfold Channel.referenceLeft Channel.cycleLeft
    rw [mark]
    cases r.mode <;> simp [StepMode.hasLength]
  have reference : now.est.reference = ref := by rw [hnow]
  refine ⟨fun g stopping => ?_, fun k e running swap first => ?_⟩
  · rw [State.advanceStep_of_current cause current, counted, State.leaveStep_of_stopping (g := g) mark (by simp [hnow, stopping])]
    dsimp only
    rw [State.complete_channel, State.endRun_channel, if_pos rfl, State.withChannel_channel_self]
    unfold reportOf Channel.entered
    rw [Channel.endedRun_isOn, Channel.endedRun_reference, Channel.endedRun_cycle, reference]
    rfl
  · have entered : now.swapAtMark = Channel.entering
        { now with store := (s.channel c).store.exchanged .ready, seq := { now.seq with loopOwner := none, loopCounter := 0 } }
        0 e (windowsOf ref e.mode) := by
      rw [Channel.swapAtMark_eq (e := e) (by rw [hnow]; exact first), reference, hnow]
    have on : Channel.isOn
        { now with store := (s.channel c).store.exchanged .ready, seq := { now.seq with loopOwner := none, loopCounter := 0 } } =
          true := by
      rw [hnow]
      exact congrArg ChannelState.isOn running
    rw [State.advanceStep_of_current cause current, counted,
      State.leaveStep_of_swap (k := k) mark (by simp [hnow, running]) (by simp [hnow, swap])]
    simp only [State.withChannel_channel_self, State.withChannel_withChannel, State.complete_channel]
    rw [entered, reportOf_entering _ _ _ _ _ _ _ on]
    simp only [reference]

/-- Settles O29: by whether the current step is HOSTED. -/
theorem advanceNeedsAHostedStep : Obligations.AdvanceNeedsAHostedStep := by
  intro s u k c tag channel dispatched hc
  have answer := dispatched.onChannel hc State.advance
  have refused (h : (u.channel c).inMode StepMode.isHosted = false) :
      exec (.advance tag channel) s = .next (u.complete k .stateConflict 0) := by
    refine answer.trans (congrArg Host.Outcome.next ?_)
    unfold State.advance
    rw [h]
    rfl
  refine ⟨fun off => refused (Channel.inMode_of_off off _), fun r current other => refused ?_, fun r limit on current hosted => ?_⟩
  · cases on : (u.channel c).isOn with
    | false => exact Channel.inMode_of_off on _
    | true =>
      rw [Channel.inMode_of_on on current]
      cases mode : r.mode with
      | hosted limit => exact absurd mode (other limit)
      | sensed | timed | scaled => rfl
  · have hosted_step : (u.channel c).inMode StepMode.isHosted = true := by
      rw [Channel.inMode_of_on on current, hosted]
      rfl
    refine answer.trans (congrArg Host.Outcome.next ?_)
    unfold State.advance
    rw [if_pos hosted_step]
    exact congrArg (State.complete _ k .success) (State.advanceDetail_of_advanceStep .hosted on current)

/-- Settles O30: by whether the timeout is due, and by the forced limit. -/
theorem timeoutForcesAdvance : Obligations.TimeoutForcesAdvance := by
  intro s c ch r line edge blank delay timeout released hch on current mode
  subst hch
  have due := Channel.timeoutDue_iff on current (by rw [mode]; rfl)
  have answer : exec (.timeout c) s = .next (s.settle.findTimeout c) := atEvent_of (f := fun u => u.findTimeout c) released
  refine ⟨fun untaken reached limit => ?_, fun untaken reached below => ?_, fun early => ?_⟩
  all_goals refine answer.trans (congrArg Host.Outcome.next ?_)
  all_goals unfold State.findTimeout
  · rw [if_pos (due.2 ⟨untaken, reached⟩)]
    exact if_pos limit
  · rw [if_pos (due.2 ⟨untaken, reached⟩)]
    exact if_neg below
  · refine if_neg fun h => ?_
    obtain ⟨untaken, reached⟩ := due.1 h
    rcases early with taken | before
    · rw [taken] at untaken
      cases untaken
    · omega

/-- Settles O31: by the mode of the current step. -/
theorem delaysAndLengthsEndSteps : Obligations.DelaysAndLengthsEndSteps := by
  intro s c ch r released hch on current
  subst hch
  have delays : exec (.delayEnd c) s = .next (s.settle.findDelayEnd c) := atEvent_of (f := fun u => u.findDelayEnd c) released
  have lengths : exec (.lengthEnd c) s = .next (s.settle.findLength c) := atEvent_of (f := fun u => u.findLength c) released
  have ends (timed : r.mode.hasLength = true) : s.settle.findLength c =
      if (s.settle.channel c).seq.windows.length ≤ (s.settle.channel c).est.stepTimer then
        s.settle.advanceStep c (s.settle.channel c).lengthCause
      else s.settle := by
    unfold State.findLength
    exact if_congr (Channel.lengthDue_iff on current timed) rfl rfl
  refine ⟨fun line edge blank delay timeout mode => ?_, fun duration mode => ?_, fun factor mode => ?_⟩
  · have due := Channel.delayDue_iff on current (by rw [mode]; rfl)
    refine ⟨fun taken reached => ?_, fun early => ?_⟩
    all_goals refine delays.trans (congrArg Host.Outcome.next ?_)
    all_goals unfold State.findDelayEnd
    · exact if_pos (due.2 ⟨taken, reached⟩)
    · refine if_neg fun h => ?_
      obtain ⟨taken, reached⟩ := due.1 h
      rcases early with untaken | before
      · rw [taken] at untaken
        cases untaken
      · omega
  · rw [lengths, ends (by rw [mode]; rfl)]
    unfold Channel.lengthCause
    rw [Channel.currentMode_of_on on current, mode]
  · rw [lengths, ends (by rw [mode]; rfl)]
    unfold Channel.lengthCause
    rw [Channel.currentMode_of_on on current, mode]

/-- Settles O32: the host limit by whether it is due, the trip line by the level sampled. -/
theorem hostLimitAndTripFault : Obligations.HostLimitAndTripFault := by
  intro s c ch released hch
  subst hch
  have trips (level : Level) : exec (.trip c level) s =
      .next ((s.settle.withChannel c ((s.settle.channel c).withTripLine level)).tripSampled c) :=
    atEvent_of (f := fun u => (u.withChannel c ((u.channel c).withTripLine level)).tripSampled c) released
  refine ⟨fun r limit on current mode => ?_, fun level calm => ?_, fun level on active => ?_⟩
  · have due := Channel.hostLimitDue_iff on current (by rw [mode]; rfl)
    refine (atEvent_of (f := fun u => u.findHostLimit c) released).trans (congrArg Host.Outcome.next ?_)
    unfold State.findHostLimit
    exact if_congr due rfl rfl
  · refine (trips level).trans (congrArg Host.Outcome.next ?_)
    unfold State.tripSampled
    rcases calm with off | other
    · rw [State.faultEntry_off _ _ _ (by rw [State.withChannel_channel_self]; exact off), ite_self]
      rfl
    · refine if_neg fun h => ?_
      rw [State.withChannel_channel_self] at h
      exact other ((Channel.tripActive_iff _).1 h)
  · refine (trips level).trans (congrArg Host.Outcome.next (if_pos ?_))
    rw [State.withChannel_channel_self]
    exact (Channel.tripActive_iff _).2 active

/-- Settles O34: the end of a run by whether a swap pends, and the deadline by its count. -/
theorem stopsEndTheRun : Obligations.StopsEndTheRun := by
  refine ⟨?_, fun s c g released stopping => ?_⟩
  · rintro s c ch rest rfl rfl
    exact ⟨fun k => State.endRun_of_swap, State.endRun_of_no_swap⟩
  · refine (atEvent_of (f := fun u => u.findDeadline c) released).trans (congrArg Host.Outcome.next ?_)
    unfold State.findDeadline
    rw [stopping]
    exact if_congr (Channel.deadlineDue_of_stopping stopping) rfl rfl

/-- Settles O35: by the mode, then by the channel state. -/
theorem stopIsTakenByModeAndState : Obligations.StopIsTakenByModeAndState := by
  intro s u k c tag channel mode deadline dispatched hc
  refine (dispatched.onChannel hc (State.stop (stopModeOf mode) deadline.toNat)).trans (congrArg Host.Outcome.next ?_)
  unfold State.stop stopModeOf State.stopNow
  by_cases immediate : mode = 0
  · subst immediate
    cases (u.channel c).seq.state <;> rfl
  · by_cases at_mark : mode = 1
    · subst at_mark
      cases (u.channel c).seq.state <;> rfl
    · rw [if_neg immediate, if_neg at_mark, if_pos ⟨immediate, at_mark⟩]

/-- Settles O36: check by check. -/
theorem clearFaultIsChecked : Obligations.ClearFaultIsChecked := by
  intro s u k c tag channel dispatched hc
  have answer := dispatched.onChannel hc State.clearFault
  refine ⟨fun no_fault => ?_, fun x fault trip => ?_, fun x fault trip => ?_⟩
  all_goals refine answer.trans (congrArg Host.Outcome.next ?_)
  all_goals unfold State.clearFault
  all_goals dsimp only
  · refine if_pos ?_
    cases state : (u.channel c).seq.state with
    | fault x => exact absurd state (no_fault x)
    | idle | running | stopping g => rfl
  · rw [fault]
    exact (if_neg Bool.false_ne_true).trans (if_pos ((Channel.tripActive_iff _).2 trip))
  · rw [fault]
    exact (if_neg Bool.false_ne_true).trans (if_neg (mt (Channel.tripActive_iff _).1 trip))

end Sys2Proof.Machine
end

section
/-! The fields of command records read as the model's values, each by the range it holds (R115, R122, R141, R164, R168, R184, R186). -/

namespace Sys2Proof.Machine

theorem byte_eq_zero_iff (b : Byte) : b = 0 ↔ b.toNat = 0 := by
  rw [← BitVec.toNat_inj]
  rfl

theorem inRange_iff (lo hi n : Nat) : inRange lo hi n = true ↔ lo ≤ n ∧ n ≤ hi := by
  simp [inRange]

theorem isAligned_iff (n : Nat) (a : Addr) : isAligned n a = true ↔ a.toNat % n = 0 := beq_iff_eq

theorem queueOf_of_eq {b : Byte} {q : QueueId} (h : b.toNat = q.val) : queueOf b = some q := by
  unfold queueOf
  rw [dif_pos (by omega)]
  exact congrArg some (Fin.ext h)

theorem queueOf_of_above {b : Byte} (h : 7 < b.toNat) : queueOf b = none := by
  unfold queueOf
  rw [dif_neg (by omega)]

theorem ioQueueOf_of_eq {b : Byte} {q : QueueId} (io : q ≠ 0) (h : b.toNat = q.val) : ioQueueOf b = some q := by
  unfold ioQueueOf
  rw [queueOf_of_eq h]
  exact if_neg io

theorem ioQueueOf_of_outside {b : Byte} (h : b = 0 ∨ 7 < b.toNat) : ioQueueOf b = none := by
  unfold ioQueueOf
  rcases h with rfl | above
  · rfl
  · rw [queueOf_of_above above]

theorem ioQueueOf_eq_some_iff (b : Byte) (q : QueueId) : ioQueueOf b = some q ↔ q ≠ 0 ∧ b.toNat = q.val := by
  refine ⟨fun h => ?_, fun h => ioQueueOf_of_eq h.1 h.2⟩
  by_cases outside : b = 0 ∨ 7 < b.toNat
  · rw [ioQueueOf_of_outside outside] at h
    cases h
  · rw [not_or, byte_eq_zero_iff] at outside
    have io : (⟨b.toNat, by omega⟩ : QueueId) ≠ 0 := fun e => outside.1 (congrArg Fin.val e)
    rw [ioQueueOf_of_eq io rfl] at h
    cases h
    exact ⟨io, rfl⟩

/-- A field that names an I/O queue names the queue of its number. -/
theorem ioQueueOf_of_inside {b : Byte} (h : ¬(b = 0 ∨ 7 < b.toNat)) : ioQueueOf b = some (Fin.ofNat 8 b.toNat) := by
  rw [not_or, byte_eq_zero_iff] at h
  have value : (Fin.ofNat 8 b.toNat).val = b.toNat := Nat.mod_eq_of_lt (by omega)
  exact ioQueueOf_of_eq (fun e => h.1 (value.symm.trans (congrArg Fin.val e))) value.symm

theorem priorityOf_of_le {b : Byte} (h : b.toNat ≤ 3) : priorityOf b = some (.level (Fin.ofNat 4 b.toNat)) := by
  unfold priorityOf
  rw [dif_pos (by omega)]
  exact congrArg (fun n => some (Priority.level n)) (Fin.ext (Nat.mod_eq_of_lt (by omega)).symm)

theorem priorityOf_of_above {b : Byte} (h : ¬b.toNat ≤ 3) : priorityOf b = none := by
  unfold priorityOf
  rw [dif_neg (by omega)]

theorem vectorOf_of_named {b : Byte} (h : b.toNat ≤ 3 ∨ b = 0xFF) :
    vectorOf b = some (if b = 0xFF then none else some (Fin.ofNat 4 b.toNat)) := by
  unfold vectorOf
  by_cases absent : b = 0xFF
  · rw [if_pos absent, if_pos absent]
  · have small := h.resolve_right absent
    rw [if_neg absent, if_neg absent, dif_pos (by omega)]
    exact congrArg (fun n => some (some n)) (Fin.ext (Nat.mod_eq_of_lt (by omega)).symm)

theorem vectorOf_of_unnamed {b : Byte} (h : ¬(b.toNat ≤ 3 ∨ b = 0xFF)) : vectorOf b = none := by
  rw [not_or] at h
  unfold vectorOf
  rw [if_neg h.2, dif_neg (by omega)]

theorem windowOf_of_eq {b : Byte} {n : Fin 4} (h : b.toNat = n.val) : windowOf b = some n := by
  unfold windowOf
  rw [dif_pos (by omega)]
  exact congrArg some (Fin.ext h)

theorem windowOf_of_above {b : Byte} (h : 3 < b.toNat) : windowOf b = none := by
  unfold windowOf
  rw [dif_neg (by omega)]

theorem rightsOf_of_unused {b : Byte} (h : b = 0 ∨ 3 < b.toNat) : rightsOf b = none := by
  unfold rightsOf
  rcases h with rfl | above
  · rfl
  · have ne (n : Byte) (small : n.toNat ≤ 3) : b ≠ n := by
      rintro rfl
      omega
    rw [if_neg (ne 1 (by decide)), if_neg (ne 2 (by decide)), if_neg (ne 3 (by decide))]

/-- The two low bits of a rights field are its grants (R184). -/
theorem rightsOf_of_used {b : Byte} (h : b ≠ 0) (small : b.toNat ≤ 3) : rightsOf b = some (b.getLsbD 0, b.getLsbD 1) := by
  have codes : b = 1 ∨ b = 2 ∨ b = 3 := by
    rw [ne_eq, byte_eq_zero_iff] at h
    have : b.toNat = 1 ∨ b.toNat = 2 ∨ b.toNat = 3 := by omega
    exact this.imp BitVec.eq_of_toNat_eq (Or.imp BitVec.eq_of_toNat_eq BitVec.eq_of_toNat_eq)
  rcases codes with rfl | rfl | rfl <;> rfl

theorem tripLevelOf_eq_some_iff (b : Byte) (level : Level) :
    tripLevelOf b = some level ↔ (b = 0 ∧ level = .high) ∨ (b = 1 ∧ level = .low) := by
  unfold tripLevelOf
  by_cases high : b = 0
  · subst high
    simp [eq_comm]
  · by_cases low : b = 1
    · subst low
      simp [eq_comm]
    · rw [if_neg high, if_neg low]
      exact ⟨(by intro h; cases h), fun h => (h.elim (fun e => high e.1) fun e => low e.1).elim⟩

theorem reportCqOf_eq_some_iff (b : Byte) (cq : Option QueueId) :
    reportCqOf b = some cq ↔ (b = 0xFF ∧ cq = none) ∨ ∃ q : QueueId, q ≠ 0 ∧ b.toNat = q.val ∧ cq = some q := by
  unfold reportCqOf
  by_cases absent : b = 0xFF
  · subst absent
    have none_named : ¬∃ q : QueueId, q ≠ 0 ∧ (0xFF : Byte).toNat = q.val ∧ cq = some q := by
      rintro ⟨q, _, value, _⟩
      have : (0xFF : Byte).toNat = 255 := rfl
      omega
    refine ⟨fun h => .inl ⟨rfl, (Option.some.inj h).symm⟩, fun h => ?_⟩
    rw [(h.resolve_right none_named).2]
    rfl
  · rw [if_neg absent]
    cases named : ioQueueOf b with
    | none =>
      refine ⟨(by intro h; cases h), ?_⟩
      rintro (⟨all, _⟩ | ⟨q, io, value, _⟩)
      · exact absurd all absent
      · rw [ioQueueOf_of_eq io value] at named
        cases named
    | some q =>
      obtain ⟨io, value⟩ := (ioQueueOf_eq_some_iff b q).1 named
      constructor
      · intro h
        cases h
        exact .inr ⟨q, io, value, rfl⟩
      · rintro (⟨all, _⟩ | ⟨p, _, other, rfl⟩)
        · exact absurd all absent
        · exact congrArg (fun n => some (some n)) (Fin.ext (value.symm.trans other))

/-- A SET_CHANNEL spells settings exactly when each of its fields lies in its range (R115 check 1). -/
theorem settingsOf_eq_some_iff (prescale shift forcedLimit filter tripLevel reportCq : Byte) (minInterval period : BitVec 16)
    (x : Settings) :
    settingsOf prescale shift forcedLimit filter tripLevel reportCq minInterval period = some x ↔
      x.SpelledBy prescale shift forcedLimit filter tripLevel reportCq minInterval period := by
  constructor
  · intro h
    unfold settingsOf at h
    split at h
    · rename_i level cq level_eq cq_eq
      split at h
      · rename_i ranges
        cases h
        simp only [Bool.and_eq_true, inRange_iff] at ranges
        obtain ⟨⟨⟨⟨prescales, shifts⟩, limits⟩, filters⟩, periods⟩ := ranges
        exact ⟨⟨rfl, prescales.2⟩, ⟨rfl, shifts.2⟩, ⟨rfl, limits⟩, rfl, ⟨rfl, periods⟩, ⟨rfl, filters.2⟩,
          (tripLevelOf_eq_some_iff _ _).1 level_eq, (reportCqOf_eq_some_iff _ _).1 cq_eq⟩
      · cases h
    · cases h
  · rintro ⟨⟨prescale_eq, prescales⟩, ⟨shift_eq, shifts⟩, ⟨limit_eq, limits⟩, interval_eq, ⟨period_eq, periods⟩,
      ⟨filter_eq, filters⟩, level, cq⟩
    unfold settingsOf
    rw [(tripLevelOf_eq_some_iff _ _).2 level, (reportCqOf_eq_some_iff _ _).2 cq]
    dsimp only
    rw [if_pos]
    · rw [← prescale_eq, ← shift_eq, ← limit_eq, ← interval_eq, ← period_eq, ← filter_eq]
    · simp only [Bool.and_eq_true, inRange_iff]
      exact ⟨⟨⟨⟨⟨Nat.zero_le _, prescales⟩, Nat.zero_le _, shifts⟩, limits⟩, Nat.zero_le _, filters⟩, periods⟩

end Sys2Proof.Machine
end

section
/-! Edges offered to the sequencer (R28, R72, R74, R75), what a tick finds before it counts (R48 to R52, R85), period starts and settings (R68, R69, R115), snapshots (R117), and the statements on them settled. -/

namespace Sys2Proof.Machine

variable {s : State} {c : ChannelId}

/-! ### What an advance and a fault entry leave of a channel -/

/-- An advance, a fault entry and the end of a run keep the front end. -/
theorem Channel.left_sense (ch : Channel) (r : StepRecord) : (ch.left r).sense = ch.sense := by
  have ended : ch.endedRun.sense = ch.sense := by
    unfold Channel.endedRun
    split <;> rfl
  have entered (x : Channel) (i : StepIx) : (x.enter i).sense = x.sense := by
    unfold Channel.enter
    split <;> rfl
  have follows : (ch.follow r).sense = ch.sense := by
    rw [Channel.follow_eq_enter, entered]
  unfold Channel.left
  split
  · exact ended
  · exact entered _ _
  all_goals exact follows

theorem Channel.faulted_sense (ch : Channel) (cause : FaultCause) : (ch.faulted cause).sense = ch.sense := by
  unfold Channel.faulted
  split <;> rfl

theorem Channel.faulted_state (ch : Channel) (cause : FaultCause) : (ch.faulted cause).seq.state = .fault cause := by
  unfold Channel.faulted
  split <;> rfl

theorem Channel.left_state (ch : Channel) (r : StepRecord) :
    (ch.left r).seq.state = ch.seq.state ∨ (ch.left r).seq.state = .idle := by
  have follows : (ch.follow r).seq.state = ch.seq.state := by
    rw [Channel.follow_eq_enter, Channel.enter_state]
  unfold Channel.left
  split
  · exact .inr ch.endedRun_state
  · exact .inl (Channel.enter_state _ _)
  all_goals exact .inl follows

theorem State.advanceStep_sense (s : State) (c : ChannelId) (cause : AdvanceCause) :
    ((s.advanceStep c cause).channel c).sense = (s.channel c).sense := by
  cases current : (s.channel c).current with
  | none => rw [State.advanceStep_absent s c cause current]
  | some r =>
    obtain ⟨lost, _, channel⟩ := State.advanceStep_channel s c cause r current
    rw [channel, if_pos rfl]
    show ((((s.channel c).seeded r).countMark r).left r).sense = _
    rw [Channel.left_sense, Channel.countMark_seeded]

theorem State.faultEntry_sense (s : State) (c : ChannelId) (cause : FaultCause) :
    ((s.faultEntry c cause).channel c).sense = (s.channel c).sense := by
  cases on : (s.channel c).isOn with
  | false => rw [State.faultEntry_off s c cause on]
  | true =>
    obtain ⟨held, channel⟩ := State.faultEntry_channel s c cause on
    rw [channel, if_pos rfl]
    exact Channel.faulted_sense _ _

theorem State.takeEdge_sense (s : State) (c : ChannelId) : ((s.takeEdge c).channel c).sense = (s.channel c).sense := by
  unfold State.takeEdge
  dsimp only
  split
  · rw [State.faultEntry_sense, State.withChannel_channel_self]
  · split
    · rw [State.advanceStep_sense, State.withChannel_channel_self]
      rfl
    · rw [State.withChannel_channel_self]
      rfl

/-- No advance makes a channel STOPPING or changes its graceful stop. -/
theorem State.stopping_of_advanceStep {cause : AdvanceCause} {g : Graceful}
    (h : ((s.advanceStep c cause).channel c).seq.state = .stopping g) : (s.channel c).seq.state = .stopping g := by
  cases current : (s.channel c).current with
  | none => rwa [State.advanceStep_absent s c cause current] at h
  | some r =>
    obtain ⟨lost, _, channel⟩ := State.advanceStep_channel s c cause r current
    rw [channel, if_pos rfl] at h
    rcases Channel.left_state (((s.channel c).seeded r).countMark r) r with same | idle
    · rw [Channel.countMark_seeded] at same
      exact same.symm.trans ((Channel.countMark_seeded _ _).symm ▸ h)
    · rw [show ((((s.channel c).seeded r).countMark r).left r).seq.state = .stopping g from h] at idle
      cases idle

theorem State.stopping_of_faultEntry {cause : FaultCause} {g : Graceful}
    (h : ((s.faultEntry c cause).channel c).seq.state = .stopping g) : (s.channel c).seq.state = .stopping g := by
  cases on : (s.channel c).isOn with
  | false => rwa [State.faultEntry_off s c cause on] at h
  | true =>
    obtain ⟨held, channel⟩ := State.faultEntry_channel s c cause on
    rw [channel, if_pos rfl] at h
    have faulted := Channel.faulted_state (s.channel c) cause
    rw [show ((s.channel c).faulted cause).seq.state = .stopping g from h] at faulted
    cases faulted

theorem State.stopping_of_forcedAdvance {g : Graceful}
    (h : ((s.forcedAdvance c).channel c).seq.state = .stopping g) : (s.channel c).seq.state = .stopping g := by
  unfold State.forcedAdvance at h
  dsimp only at h
  split at h
  · have before := State.stopping_of_faultEntry h
    rwa [State.withChannel_channel_self] at before
  · have before := State.stopping_of_advanceStep h
    rwa [State.withChannel_channel_self] at before

theorem State.stopping_of_findWindow {g : Graceful}
    (h : ((s.findWindow c).channel c).seq.state = .stopping g) : (s.channel c).seq.state = .stopping g := by
  unfold State.findWindow at h
  split at h
  · exact State.stopping_of_forcedAdvance h
  split at h
  · exact State.stopping_of_advanceStep h
  split at h
  · exact State.stopping_of_advanceStep h
  split at h
  · exact State.stopping_of_faultEntry h
  · exact h

/-! ### Edges offered (R28, R74, R75) -/

section
variable {sample : Table 3 Level} {edges : List LineId}
  (accepted : ∀ l ∈ edges, (s.channel c).sense.accepted.read l = sample.read l)
include accepted

theorem State.offerEdges_of_none_awaited (n : Nat) (unawaited : ∀ l ∈ edges, ¬(s.channel c).awaits l (sample.read l)) :
    State.offerEdges c n edges s = s := by
  cases n with
  | zero => rfl
  | succ n =>
    have none_taken : (s.channel c).taken edges = none :=
      (Channel.taken_eq_none _ _).2 fun l mem h => unawaited l mem (accepted l mem ▸ h)
    unfold State.offerEdges
    rw [none_taken]

theorem State.offerEdges_of_awaited (n : Nat) {l : LineId} (mem : l ∈ edges) (awaited : (s.channel c).awaits l (sample.read l)) :
    State.offerEdges c (n + 1) edges s = State.offerEdges c n (edges.filter fun i => i != l) (s.takeEdge c) := by
  have taken : (s.channel c).taken edges = some l :=
    Channel.taken_eq_some _ mem ((accepted l mem).symm ▸ awaited)
  rw [State.offerEdges, taken]

/-- The edges left after one has been taken stand at the same accepted levels. -/
theorem State.accepted_after_takeEdge (l : LineId) :
    ∀ m ∈ edges.filter (fun i => i != l), ((s.takeEdge c).channel c).sense.accepted.read m = sample.read m := by
  intro m mem
  rw [State.takeEdge_sense]
  exact accepted m (List.mem_filter.1 mem).1

end

theorem mem_edges_filter {edges : List LineId} {l m : LineId} : m ∈ edges.filter (fun i => i != l) ↔ m ∈ edges ∧ m ≠ l := by
  simp

/-! ### What a tick finds (R51, R85) -/

theorem Channel.blankDue_iff {ch : Channel} {r : StepRecord} (on : ch.isOn = true) (current : ch.current = some r)
    (sensed : r.mode.isSensed = true) :
    ch.blankDue = true ↔ ch.seq.blankFound = false ∧ ch.seq.windows.blankEnd ≤ ch.est.stepTimer := by
  simp [Channel.blankDue, Channel.inMode_of_on on current, sensed]

theorem State.withChannel_self (s : State) (c : ChannelId) : s.withChannel c (s.channel c) = s :=
  congrArg (fun x => { s with channels := x }) (Table.write_read_self _ _)

theorem State.findBlank_of_not_due (h : (s.channel c).blankDue = false) : s.findBlank c = s :=
  if_neg (ne_true_of_eq_false h)

theorem State.findBlank_eq (s : State) (c : ChannelId) :
    s.findBlank c = s.withChannel c { s.channel c with
      seq := { (s.channel c).seq with blankFound := (s.channel c).seq.blankFound || (s.channel c).blankDue } } := by
  cases due : (s.channel c).blankDue with
  | false =>
    rw [Bool.or_false]
    exact (State.findBlank_of_not_due due).trans (s.withChannel_self c).symm
  | true =>
    rw [Bool.or_true]
    exact if_pos due

theorem State.findWindow_of_not_due (h : (s.channel c).windowDue = false) : s.findWindow c = s := by
  unfold Channel.windowDue at h
  simp only [Bool.or_eq_false_iff] at h
  obtain ⟨⟨⟨timeout, delay⟩, length⟩, limit⟩ := h
  unfold State.findWindow
  simp [timeout, delay, length, limit]

theorem State.findDeadline_of_not_due (h : (s.channel c).deadlineDue = false) : s.findDeadline c = s := by
  unfold State.findDeadline
  rw [h]
  rfl

theorem State.findDeadline_of_due {g : Graceful} (stopping : (s.channel c).seq.state = .stopping g)
    (due : (s.channel c).deadlineDue = true) : s.findDeadline c = (s.endRun c).complete g.slot .deadline 0 := by
  unfold State.findDeadline
  rw [if_pos due, stopping]
  rfl

/-- A channel that is not STOPPING has no deadline. -/
theorem Channel.deadlineDue_of_not_stopping {ch : Channel} (h : ∀ g, ch.seq.state ≠ .stopping g) : ch.deadlineDue = false := by
  unfold Channel.deadlineDue
  cases state : ch.seq.state with
  | stopping g => exact absurd state (h g)
  | idle | running | fault x => rfl

theorem State.findAll_of_not_both (h : ¬((s.channel c).windowDue = true ∧ (s.channel c).deadlineDue = true)) :
    s.findAll c = ((s.findBlank c).findWindow c).findDeadline c := by
  unfold State.findAll
  dsimp only
  rw [if_neg]
  intro both
  rw [State.findBlank_eq, State.withChannel_channel_self, Bool.and_eq_true] at both
  exact h both

/-- Where a window and the deadline fall together either is found first (R85). -/
theorem State.findAll_of_both (window : (s.channel c).windowDue = true) (deadline : (s.channel c).deadlineDue = true) :
    s.findAll c = (State.findDeadline { s.findBlank c with choice := (s.findBlank c).choice + 1 } c).findWindow c ∨
      s.findAll c = (State.findWindow { s.findBlank c with choice := (s.findBlank c).choice + 1 } c).findDeadline c := by
  unfold State.findAll
  dsimp only
  have both : (((s.findBlank c).channel c).windowDue && ((s.findBlank c).channel c).deadlineDue) = true := by
    rw [State.findBlank_eq, State.withChannel_channel_self, Bool.and_eq_true]
    exact ⟨window, deadline⟩
  rw [if_pos both]
  split
  · exact .inl rfl
  · exact .inr rfl

theorem State.findAll_of_nothing_due (blank : (s.channel c).blankDue = false) (window : (s.channel c).windowDue = false)
    (deadline : (s.channel c).deadlineDue = false) : s.findAll c = s := by
  rw [State.findAll_of_not_both (by simp [window]), State.findBlank_of_not_due blank, State.findWindow_of_not_due window,
    State.findDeadline_of_not_due deadline]

/-- The window of the current step, of whatever mode (R30, R31, R33, R35). -/
theorem Channel.windowDue_iff {ch : Channel} {r : StepRecord} (on : ch.isOn = true) (current : ch.current = some r) :
    ch.windowDue = true ↔ match r.mode with
      | .sensed _ _ _ _ _ =>
        (ch.seq.edgeTaken = true ∧ ch.seq.edgeTimer + ch.seq.windows.delay ≤ ch.est.stepTimer) ∨
        (ch.seq.edgeTaken = false ∧ ch.seq.windows.timeout ≤ ch.est.stepTimer)
      | .timed _ | .scaled _ => ch.seq.windows.length ≤ ch.est.stepTimer
      | .hosted _ => ch.seq.windows.hostLimit ≠ 0 ∧ ch.seq.windows.hostLimit ≤ ch.est.stepTimer := by
  unfold Channel.windowDue Channel.timeoutDue Channel.delayDue Channel.lengthDue Channel.hostLimitDue
  simp only [Channel.inMode_of_on on current]
  cases r.mode <;> simp [StepMode.isSensed, StepMode.hasLength, StepMode.isHosted, or_comm]

/-- What a window that has been reached does, by the mode of the step (R30, R31, R33, R35). -/
theorem State.findWindow_of_due {r : StepRecord} (on : (s.channel c).isOn = true) (current : (s.channel c).current = some r)
    (due : (s.channel c).windowDue = true) :
    s.findWindow c = match r.mode with
      | .sensed _ _ _ _ _ => if (s.channel c).seq.edgeTaken = true then s.advanceStep c .sensed else s.forcedAdvance c
      | .timed _ => s.advanceStep c .timed
      | .scaled _ => s.advanceStep c .scaled
      | .hosted _ => s.faultEntry c .hostTimeout := by
  have reached := (Channel.windowDue_iff on current).1 due
  have other {p : StepMode → Bool} (h : p r.mode = false) : (s.channel c).inMode p = false :=
    (Channel.inMode_of_on on current p).trans h
  have no_timeout (h : r.mode.isSensed = false) : (s.channel c).timeoutDue = false := by
    simp [Channel.timeoutDue, other h]
  have no_delay (h : r.mode.isSensed = false) : (s.channel c).delayDue = false := by
    simp [Channel.delayDue, other h]
  have no_length (h : r.mode.hasLength = false) : (s.channel c).lengthDue = false := by
    simp [Channel.lengthDue, other h]
  unfold State.findWindow
  cases mode : r.mode with
  | sensed line edge blank delay timeout =>
    have timeouts := Channel.timeoutDue_iff on current (by rw [mode]; rfl)
    have delays := Channel.delayDue_iff on current (by rw [mode]; rfl)
    rw [mode] at reached
    dsimp only at reached ⊢
    cases taken : (s.channel c).seq.edgeTaken with
    | true =>
      rw [taken] at reached timeouts delays
      rw [if_neg (by simp [timeouts]), if_pos (delays.2 (reached.resolve_right (by simp))), if_pos rfl]
    | false =>
      rw [taken] at reached timeouts
      rw [if_pos (timeouts.2 (reached.resolve_left (by simp))), if_neg Bool.false_ne_true]
  | timed duration =>
    have lengths := Channel.lengthDue_iff on current (by rw [mode]; rfl)
    rw [mode] at reached
    rw [no_timeout (by rw [mode]; rfl), no_delay (by rw [mode]; rfl), lengths.2 reached]
    unfold Channel.lengthCause
    rw [Channel.currentMode_of_on on current, mode]
    rfl
  | scaled factor =>
    have lengths := Channel.lengthDue_iff on current (by rw [mode]; rfl)
    rw [mode] at reached
    rw [no_timeout (by rw [mode]; rfl), no_delay (by rw [mode]; rfl), lengths.2 reached]
    unfold Channel.lengthCause
    rw [Channel.currentMode_of_on on current, mode]
    rfl
  | hosted limit =>
    have limits := Channel.hostLimitDue_iff on current (by rw [mode]; rfl)
    rw [mode] at reached
    rw [no_timeout (by rw [mode]; rfl), no_delay (by rw [mode]; rfl), no_length (by rw [mode]; rfl), limits.2 reached]
    rfl

theorem State.deadlineDue_after_findWindow (h : (s.channel c).deadlineDue = false) :
    ((s.findWindow c).channel c).deadlineDue = false := by
  cases state : ((s.findWindow c).channel c).seq.state with
  | stopping g =>
    have before := State.stopping_of_findWindow state
    rw [← h]
    unfold Channel.deadlineDue
    rw [state, before]
  | idle | running | fault x => exact Channel.deadlineDue_of_not_stopping fun g => by rw [state]; exact nofun

/-- The deadline found after a window ends the run where the window has left it STOPPING (R85). -/
theorem State.findDeadline_after_findWindow (due : (s.channel c).deadlineDue = true) :
    (s.findWindow c).findDeadline c = match ((s.findWindow c).channel c).seq.state with
      | .stopping g => ((s.findWindow c).endRun c).complete g.slot .deadline 0
      | .idle | .running | .fault _ => s.findWindow c := by
  cases state : ((s.findWindow c).channel c).seq.state with
  | stopping g =>
    have before := State.stopping_of_findWindow state
    exact State.findDeadline_of_due state
      ((Channel.deadlineDue_of_stopping state).2 ((Channel.deadlineDue_of_stopping before).1 due))
  | idle | running | fault x =>
    exact State.findDeadline_of_not_due (Channel.deadlineDue_of_not_stopping fun g => by rw [state]; exact nofun)

/-! ### The statements -/

/-- Settles O38: edge by edge as the steps take them, and the blank end by whether it has been reached. -/
theorem edgesAreTakenBySensedSteps : Obligations.EdgesAreTakenBySensedSteps := by
  refine ⟨fun s t c ch sense sample released hch after ht => ?_, fun s c ch r line edge blank delay timeout released hch on current mode => ?_⟩
  · subst hch
    obtain rfl : sense = ((s.settle.channel c).sampled sample).sense := after.unique (Channel.sampled_after _ _)
    have sampled : t = s.settle.withChannel c ((s.settle.channel c).sampled sample) := ht
    have answer : exec (.senseEdge c sample) s =
        .next (State.offerEdges c 3 ((s.settle.channel c).edgesOf sample) t) := by
      rw [sampled]
      exact atEvent_of (f := fun u => u.sampleSense c sample) released
    have mem (l : LineId) := Channel.mem_edgesOf (s.settle.channel c) sample l
    have awaits (l : LineId) (v : Level) : (t.channel c).awaits l v ↔ (s.settle.channel c).awaits l v := by
      rw [sampled, State.withChannel_channel_self]
      exact Iff.rfl
    have accepted : ∀ l ∈ (s.settle.channel c).edgesOf sample, (t.channel c).sense.accepted.read l = sample.read l := by
      intro l h
      rw [sampled, State.withChannel_channel_self]
      obtain ⟨differs, reaches⟩ := (mem l).1 h
      exact ((Channel.sampled_after _ _).edge l differs reaches).1
    refine ⟨fun unawaited => ?_, ?_⟩
    · rw [answer, State.offerEdges_of_none_awaited accepted _ fun l h => (awaits l _).not.2 (unawaited l ((mem l).1 h))]
    · rintro l u made awaited rfl
      have first := State.offerEdges_of_awaited accepted 2 ((mem l).2 made) ((awaits l _).2 awaited)
      have accepted_u := State.accepted_after_takeEdge accepted l
      refine ⟨fun unawaited => ?_, ?_⟩
      · rw [answer, first, State.offerEdges_of_none_awaited accepted_u _ fun m h => ?_]
        obtain ⟨edge, ne⟩ := mem_edges_filter.1 h
        exact unawaited m ne ((mem m).1 edge)
      · rintro m v m_ne_l m_made m_awaited rfl
        have second := State.offerEdges_of_awaited accepted_u 1 (mem_edges_filter.2 ⟨(mem m).2 m_made, m_ne_l⟩) m_awaited
        have accepted_v := State.accepted_after_takeEdge accepted_u m
        refine ⟨fun unawaited => ?_, fun n n_ne_l n_ne_m n_made n_awaited => ?_⟩
        · rw [answer, first, second, State.offerEdges_of_none_awaited accepted_v _ fun n h => ?_]
          obtain ⟨rest, n_ne_m⟩ := mem_edges_filter.1 h
          obtain ⟨edge, n_ne_l⟩ := mem_edges_filter.1 rest
          exact unawaited n n_ne_l n_ne_m ((mem n).1 edge)
        · rw [answer, first, second, State.offerEdges_of_awaited accepted_v 0
            (mem_edges_filter.2 ⟨mem_edges_filter.2 ⟨(mem n).2 n_made, n_ne_l⟩, n_ne_m⟩) n_awaited]
          rfl
  · subst hch
    have due := Channel.blankDue_iff on current (by rw [mode]; rfl)
    have answer : exec (.blankEnd c) s = .next (s.settle.findBlank c) := atEvent_of (f := fun u => u.findBlank c) released
    refine ⟨fun reached => ?_, fun early => ?_⟩
    · have found : ((s.settle.channel c).seq.blankFound || (s.settle.channel c).blankDue) = true := by
        cases known : (s.settle.channel c).seq.blankFound with
        | true => rfl
        | false => exact due.2 ⟨known, reached⟩
      rw [answer, State.findBlank_eq, found]
    · have unreached : (s.settle.channel c).blankDue = false := by
        rw [← Bool.not_eq_true, due]
        omega
      rw [answer, State.findBlank_of_not_due unreached]

/-- Settles O39: by what stands due, then by the span counter. -/
theorem ticksCount : Obligations.TicksCount := by
  have ticks (s : State) (c : ChannelId) (released : s.resetPin = false) : exec (.tick c) s =
      .next ((s.settle.findAll c).withChannel c ((s.settle.findAll c).channel c).ticked) :=
    (atEvent_of (f := fun u => u.tick c) released).trans (congrArg Host.Outcome.next (State.tick_eq _ c))
  refine ⟨fun s c ch released hch blank window deadline => ?_, ?_⟩
  · subst hch
    have saturates : exec (.spanCounterSaturation c) s = .next (s.settle.saturateSpan c) :=
      atEvent_of (f := fun u => u.saturateSpan c) released
    refine ⟨?_, fun on span => ?_, fun on span => ?_, fun calm => ?_⟩
    · rw [ticks s c released, State.findAll_of_nothing_due blank window deadline]
    all_goals rw [saturates]
    all_goals unfold State.saturateSpan
    · rw [on, span]
      rfl
    · rw [on, span, if_neg (by decide), if_pos rfl]
      exact (atEvent_of (f := fun u => u.tick c) released).symm
    · rcases calm with off | below
      · rw [off]
        rfl
      · rw [if_neg (by omega : ¬_ = 65534), if_neg (by omega : ¬_ = 65535), ite_self]
  · intro s b w c ch found r released hch on current hfound hb hw
    subst hch
    have blank : s.settle.findBlank c = s.settle.withChannel c found := by
      rw [State.findBlank_eq, hfound]
    have b_channel : b.channel c = found := by
      rw [hb]
      exact State.withChannel_channel_self _ _ _
    have b_on : (b.channel c).isOn = true := by
      rw [b_channel, hfound]
      exact on
    have b_current : (b.channel c).current = some r := by
      rw [b_channel, hfound]
      exact current
    have b_window : (b.channel c).windowDue = (s.settle.channel c).windowDue := by
      rw [b_channel, hfound]
      rfl
    have b_deadline : (b.channel c).deadlineDue = (s.settle.channel c).deadlineDue := by
      rw [b_channel, hfound]
      rfl
    have window_found (due : (s.settle.channel c).windowDue = true) : b.findWindow c = w := by
      rw [State.findWindow_of_due b_on b_current (b_window.trans due), hw due]
      unfold State.forcedAdvance
      rw [b_channel, hfound] <;> rfl
    have b_of_one (h : ¬((s.settle.channel c).windowDue = true ∧ (s.settle.channel c).deadlineDue = true)) :
        s.settle.findBlank c = b := by
      rw [blank, hb, if_neg h]
      rfl
    have one (h : ¬((s.settle.channel c).windowDue = true ∧ (s.settle.channel c).deadlineDue = true)) :
        s.settle.findAll c = (b.findWindow c).findDeadline c := by
      rw [State.findAll_of_not_both h, b_of_one h]
    refine ⟨Channel.windowDue_iff on current, fun no_window no_deadline => ?_, fun due no_deadline => ?_, ?_⟩
    · rw [ticks s c released, one (fun h => ne_true_of_eq_false no_window h.1), State.findWindow_of_not_due (b_window.trans no_window),
        State.findDeadline_of_not_due (b_deadline.trans no_deadline), b_channel]
    · have calm := State.deadlineDue_after_findWindow (b_deadline.trans no_deadline)
      rw [ticks s c released, one (fun h => ne_true_of_eq_false no_deadline h.2), State.findDeadline_of_not_due calm, window_found due]
    · rintro g stopping d rfl
      have b_stopping : (b.channel c).seq.state = .stopping g := by
        rw [b_channel, hfound]
        exact stopping
      refine ⟨Channel.deadlineDue_of_stopping stopping, fun no_window due => ?_, fun window deadline => ?_⟩
      · rw [ticks s c released, one (fun h => ne_true_of_eq_false no_window h.1), State.findWindow_of_not_due (b_window.trans no_window),
          State.findDeadline_of_due b_stopping (b_deadline.trans due)]
      · have b_of_both : { s.settle.findBlank c with choice := (s.settle.findBlank c).choice + 1 } = b := by
          rw [blank, hb, if_pos ⟨window, deadline⟩]
          rfl
        have d_eq := State.findDeadline_of_due b_stopping (b_deadline.trans deadline)
        rw [ticks s c released]
        have order := State.findAll_of_both window deadline
        rw [b_of_both, window_found window, d_eq] at order
        rcases order with first | last
        · left
          rw [first, State.findWindow_off]
          rw [State.complete_channel, State.endRun_channel, if_pos rfl]
          exact Channel.endedRun_isOn _
        · right
          have found := State.findDeadline_after_findWindow (b_deadline.trans deadline)
          rw [window_found window] at found
          exact ⟨_, congrArg (fun x : State => Host.Outcome.next (x.withChannel c (x.channel c).ticked)) last, found⟩

/-- Settles O40: the duty by its bound, the period start by the shadow and the override it finds. -/
theorem periodStartsTakeTheDuty : Obligations.PeriodStartsTakeTheDuty := by
  refine ⟨fun s u k c tag channel duty dispatched hc => dispatched.onChannel hc (State.setDuty duty.toNat),
    fun s c ch duty override released hch no_shadow shadow staged unstaged => ?_⟩
  subst hch
  obtain rfl : duty = (s.settle.channel c).pwm.shadow.getD (s.settle.channel c).pwm.duty := by
    cases h : (s.settle.channel c).pwm.shadow with
    | none => exact no_shadow h
    | some d => exact shadow d h
  obtain rfl : override = (s.settle.channel c).pwm.override.begin := by
    cases h : (s.settle.channel c).pwm.override with
    | staged d => exact staged d h
    | none | inForce d => exact (unstaged (by rw [h]; exact nofun)).trans h
  refine (atEvent_of (f := fun u => u.withChannel c (u.channel c).periodStarted) released).trans (congrArg Host.Outcome.next ?_)
  unfold Channel.periodStarted Pwm.periodStart
  cases (s.settle.channel c).pwm.override <;> rfl

/-- Settles O42: check by check. -/
theorem setChannelIsChecked : Obligations.SetChannelIsChecked := by
  intro s u k c tag channel prescale shift forcedLimit filter tripLevel reportCq minInterval period dispatched hc
  have answer :
      exec (.setChannel tag channel prescale shift forcedLimit filter tripLevel reportCq minInterval period) s =
        .next (State.setChannel (settingsOf prescale shift forcedLimit filter tripLevel reportCq minInterval period) c k u) :=
    dispatched.onChannel hc _
  have spelled := settingsOf_eq_some_iff prescale shift forcedLimit filter tripLevel reportCq minInterval period
  refine ⟨fun unspelled => ?_, fun x h => ?_⟩
  · refine answer.trans (congrArg Host.Outcome.next ?_)
    cases fields : settingsOf prescale shift forcedLimit filter tripLevel reportCq minInterval period with
    | none => rfl
    | some x => exact absurd ⟨x, (spelled x).1 fields⟩ unspelled
  · rw [(spelled x).2 h] at answer
    have opened (all : ∀ q, x.reportCq = some q → (u.cq q).state = .opened) : u.reportCqOpen x.reportCq = true := by
      cases named : x.reportCq with
      | none => rfl
      | some q => exact beq_iff_eq.2 (all q named)
    refine ⟨?_, fun all busy => ?_, fun all idle => ?_⟩
    · rintro ⟨q, named, unopened⟩
      refine answer.trans (congrArg Host.Outcome.next (if_pos ?_))
      rw [named, Bool.not_eq_true']
      exact beq_eq_false_iff_ne.2 unopened
    all_goals refine answer.trans (congrArg Host.Outcome.next ?_)
    all_goals unfold State.setChannel
    all_goals dsimp only
    all_goals rw [opened all, if_neg (by decide)]
    · rw [if_pos busy]
    · rw [if_neg (not_not.2 idle)]
      rfl

/-- Settles O43: check by check, and the write's end by whether it answers, fails or has been discarded. -/
theorem readChannelWritesASnapshot : Obligations.ReadChannelWritesASnapshot := by
  refine ⟨fun s u k tag channel destination dispatched => ?_, fun s k released => ?_⟩
  · refine (dispatched.answer (State.readChannel destination)).trans (congrArg Host.Outcome.next ?_)
    unfold State.readChannel
    refine if_congr ?_ rfl (if_congr ?_ rfl rfl)
    · rw [Bool.not_eq_true', ← Bool.not_eq_true, isAligned_iff]
    · rw [Bool.not_eq_true']
  · have done : exec (.snapshotWriteDone k) s = .next (s.settle.snapshotDone k) :=
      atEvent_of (f := fun u => u.snapshotDone k) released
    have failed : exec (.snapshotWriteError k) s = .next (s.settle.snapshotFailed k) :=
      atEvent_of (f := fun u => u.snapshotFailed k) released
    rw [done, failed]
    unfold State.snapshotDone State.snapshotFailed
    refine ⟨fun answers => ?_, fun fails => ?_, fun discarded => ⟨?_, ?_⟩, fun kept => ⟨fun silent => ?_, fun silent => ?_⟩⟩
    · rw [if_pos answers]
      rfl
    · rw [if_pos fails]
      rfl
    · rw [Port.not_answers_of_hasDiscarded discarded, discarded]
      exact congrArg Host.Outcome.next (State.endDiscarded_eq _ _)
    · rw [Port.not_fails_of_hasDiscarded discarded, discarded]
      exact congrArg Host.Outcome.next (State.endDiscarded_eq _ _)
    · rw [silent, kept]
      rfl
    · rw [silent, kept]
      rfl

end Sys2Proof.Machine
end

section
/-! CANCEL's search for the oldest match (R111), what a cancel request finds at its target's owner (R15, R19, R87, R112), and the two statements on them settled. -/

namespace Sys2Proof.Machine

variable {s : State}

/-! ### The oldest of a row of candidates -/

section
variable {candidate : SlotId → Option (SlotId × Nat)} {l : List SlotId}

theorem older_none_right (x : Option (SlotId × Nat)) : older x none = x := by
  cases x <;> rfl

theorem foldl_older_of_none (acc : Option (SlotId × Nat)) (h : ∀ i ∈ l, candidate i = none) :
    l.foldl (fun acc i => older acc (candidate i)) acc = acc := by
  induction l with
  | nil => rfl
  | cons i l ih =>
    rw [List.foldl_cons, h i List.mem_cons_self, older_none_right]
    exact ih fun j mem => h j (List.mem_cons_of_mem _ mem)

variable {j : SlotId} {best : SlotId × Nat} (found : candidate j = some best)
  (least : ∀ i y, i ≠ j → candidate i = some y → best.2 < y.2)
include found least

theorem older_best (i : SlotId) : older (some best) (candidate i) = some best := by
  cases h : candidate i with
  | none => rfl
  | some y =>
    have bound : ¬y.2 < best.2 := by
      by_cases same : i = j
      · subst same
        rw [found] at h
        cases h
        exact lt_irrefl _
      · exact (least i y same h).not_gt
    exact if_neg bound

theorem foldl_older_best : l.foldl (fun acc i => older acc (candidate i)) (some best) = some best := by
  induction l with
  | nil => rfl
  | cons i l ih => rw [List.foldl_cons, older_best found least, ih]

/-- The least candidate of the row is found wherever it stands in it. -/
theorem foldl_older_of_least {acc : Option (SlotId × Nat)} (above : ∀ y, acc = some y → best.2 < y.2) (mem : j ∈ l) :
    l.foldl (fun acc i => older acc (candidate i)) acc = some best := by
  induction l generalizing acc with
  | nil => cases mem
  | cons i l ih =>
    rw [List.foldl_cons]
    by_cases same : i = j
    · subst same
      have taken : older acc (candidate i) = some best := by
        rw [found]
        cases acc with
        | none => rfl
        | some y => exact if_pos (above y rfl)
      rw [taken, foldl_older_best found least]
    · refine ih (fun y h => ?_) ((List.mem_cons.1 mem).resolve_left (Ne.symm same))
      cases acc with
      | none => exact least i y same h
      | some x =>
        cases here : candidate i with
        | none =>
          rw [here] at h
          exact above y h
        | some z =>
          rw [here] at h
          change (if z.2 < x.2 then some z else some x) = some y at h
          split at h
          · cases h
            exact least i _ same here
          · exact above y h

end

/-! ### CANCEL (R111) -/

/-- What a slot offers the search of the CANCEL in slot `k`. -/
def State.candidate (s : State) (k : SlotId) (q : QueueId) (tag : BitVec 16) (i : SlotId) : Option (SlotId × Nat) :=
  if i = k then none else ((s.slot i).matchAge q tag).map fun age => (i, age)

theorem State.oldestMatch_eq (s : State) (k : SlotId) (q : QueueId) (tag : BitVec 16) :
    s.oldestMatch k q tag = (List.finRange 16).foldl (fun acc i => older acc (s.candidate k q tag i)) none := by
  unfold State.oldestMatch State.candidate
  congr
  funext acc i
  split
  · exact (older_none_right acc).symm
  · rfl

theorem State.candidate_eq_some_iff (s : State) (k : SlotId) (q : QueueId) (tag : BitVec 16) (i : SlotId) (y : SlotId × Nat) :
    s.candidate k q tag i = some y ↔ i ≠ k ∧ ∃ w, s.slot i = .working w ∧ w.sq = q ∧ w.tag = tag ∧ y = (i, w.age) := by
  unfold State.candidate
  by_cases own : i = k
  · simp [own]
  · rw [if_neg own]
    cases s.slot i with
    | free | fetching age sq cq => simp [Slot.matchAge]
    | working w =>
      by_cases matching : w.sq = q ∧ w.tag = tag
      · simp [Slot.matchAge, own, matching, eq_comm]
      · simp only [Slot.matchAge, if_neg matching]
        refine ⟨nofun, ?_⟩
        rintro ⟨_, v, same, sq, tag, _⟩
        cases same
        exact absurd ⟨sq, tag⟩ matching

theorem State.oldestMatch_eq_none {k : SlotId} {q : QueueId} {tag : BitVec 16}
    (h : ∀ j w, j ≠ k → s.slot j = .working w → ¬(w.sq = q ∧ w.tag = tag)) : s.oldestMatch k q tag = none := by
  rw [State.oldestMatch_eq]
  refine foldl_older_of_none none fun i _ => ?_
  cases offered : s.candidate k q tag i with
  | none => rfl
  | some y =>
    obtain ⟨other, w, working, sq, tag, _⟩ := (s.candidate_eq_some_iff _ _ _ _ _).1 offered
    exact absurd ⟨sq, tag⟩ (h i w other working)

theorem State.oldestMatch_eq_some {k j : SlotId} {q : QueueId} {tag : BitVec 16} {w : Working} (other : j ≠ k)
    (working : s.slot j = .working w) (sq : w.sq = q) (match_tag : w.tag = tag)
    (oldest : ∀ i v, i ≠ k → i ≠ j → s.slot i = .working v → v.sq = q → v.tag = tag → w.age < v.age) :
    s.oldestMatch k q tag = some (j, w.age) := by
  rw [State.oldestMatch_eq]
  refine foldl_older_of_least (j := j) ((s.candidate_eq_some_iff _ _ _ _ _).2 ⟨other, w, working, sq, match_tag, rfl⟩)
    (fun i y ne offered => ?_) nofun (List.mem_finRange j)
  obtain ⟨i_other, v, v_working, v_sq, v_tag, rfl⟩ := (s.candidate_eq_some_iff _ _ _ _ _).1 offered
  exact oldest i v i_other ne v_working v_sq v_tag

/-- The three commands a CANCEL can end (R111). -/
theorem CommandCode.ite_isCancelable {α : Type} (code : CommandCode) (requested refused : α) :
    (if code.isCancelable then requested else refused) =
      match code with
      | .loadSteps | .commitSteps | .stop => requested
      | _ => refused := by
  cases code <;> rfl

/-! ### Cancel requests (R112) -/

theorem State.cancelTarget_of_stale {x : CancelRequest} (h : ∀ w, s.slot x.target = .working w → w.age ≠ x.targetAge) :
    s.cancelTarget x = none := by
  unfold State.cancelTarget
  cases slot : s.slot x.target with
  | free | fetching age sq cq => rfl
  | working w => exact if_neg (h w slot)

theorem State.takeCancel_of_stale {x : CancelRequest} (h : ∀ w, s.slot x.target = .working w → w.age ≠ x.targetAge) :
    s.takeCancel x = s.complete x.canceller .notFound 0 := by
  unfold State.takeCancel
  rw [State.cancelTarget_of_stale h]

section
variable {x : CancelRequest} {w : Working} {c : ChannelId} (working : s.slot x.target = .working w) (age : w.age = x.targetAge)
  (channel : channelOf w.channel = some c)
include working age channel

/-- A target still in its slot is ended where its owner finds it waiting. -/
theorem State.takeCancel_of_target : s.takeCancel x = match s.withdraw c x.target w.code with
    | some t => (t.complete x.target .aborted 0).complete x.canceller .success 0
    | none => s.complete x.canceller .notFound 0 := by
  have target : s.cancelTarget x = some w := by
    unfold State.cancelTarget
    rw [working]
    exact if_pos age
  unfold State.takeCancel
  rw [target]
  dsimp only
  rw [channel] <;> rfl

end

section
variable {c : ChannelId} {k : SlotId}

theorem State.withdraw_load {l : Load} (loading : (s.channel c).store.standby = .loading l) (own : l.slot = k) :
    s.withdraw c k .loadSteps = some (s.cancelLoad c l) := by
  unfold State.withdraw
  rw [loading]
  exact if_pos own

theorem State.withdraw_no_load (h : ∀ l, (s.channel c).store.standby = .loading l → l.slot ≠ k) :
    s.withdraw c k .loadSteps = none := by
  unfold State.withdraw
  cases standby : (s.channel c).store.standby with
  | loading l => exact if_neg (h l standby)
  | empty | ready | swapPending j => rfl

theorem State.withdraw_stop {g : Graceful} (stopping : (s.channel c).seq.state = .stopping g) (own : g.slot = k) :
    s.withdraw c k .stop =
      some (s.withChannel c { s.channel c with seq := { (s.channel c).seq with state := .running } }) := by
  unfold State.withdraw
  rw [stopping]
  exact if_pos own

theorem State.withdraw_no_stop (h : ∀ g, (s.channel c).seq.state = .stopping g → g.slot ≠ k) :
    s.withdraw c k .stop = none := by
  unfold State.withdraw
  cases state : (s.channel c).seq.state with
  | stopping g => exact if_neg (h g state)
  | idle | running | fault x => rfl

/-- A cancelled load returns the bank to its prior state, and its read will be discarded (R15). -/
theorem State.cancelLoad_eq (l : Load) :
    s.cancelLoad c l = (s.withChannel c ((s.channel c).withStandby (match l.prior with
        | .empty => .empty
        | .ready => .ready))).withPort
      { requests := s.port.requests.map fun y => if y.requester = .load c then { y with discarded := true } else y,
        begun := s.port.begun.map fun y => if y.requester = .load c then { y with discarded := true } else y } := by
  unfold State.cancelLoad Port.discardOf
  cases l.prior <;> simp [Prior.toStandby, Transaction.discard]

end

/-! ### The statements -/

/-- Settles O44: by what the search finds. -/
theorem cancelFindsTheOldestMatch : Obligations.CancelFindsTheOldestMatch := by
  intro s u k tag queue target dispatched
  have answer := dispatched.answer (State.cancel queue target)
  refine ⟨fun above => ?_, fun q named => ⟨fun none_matches => ?_, fun j w other working sq match_tag oldest => ?_⟩⟩
  all_goals refine answer.trans (congrArg Host.Outcome.next ?_)
  all_goals unfold State.cancel
  · rw [queueOf_of_above above]
  · rw [queueOf_of_eq named]
    dsimp only
    rw [State.oldestMatch_eq_none none_matches]
  · rw [queueOf_of_eq named]
    dsimp only
    rw [State.oldestMatch_eq_some other working sq match_tag oldest]
    dsimp only
    rw [working]
    exact CommandCode.ite_isCancelable _ _ _

/-- Settles O45: by the target's slot, then by what its owner finds. -/
theorem cancelRequestsAreAnswered : Obligations.CancelRequestsAreAnswered := by
  intro s t k x released requested ht
  have answer : exec (.cancelRequest k) s = .next (t.takeCancel x) := by
    refine (atEvent_of (f := fun u => u.cancelRequest k) released).trans (congrArg Host.Outcome.next ?_)
    unfold State.cancelRequest
    rw [requested, ht]
  refine ⟨fun stale => ?_, fun w c working age channel => ?_⟩
  · rw [answer, State.takeCancel_of_stale stale]
  · rw [State.takeCancel_of_target working age channel] at answer
    refine ⟨fun l code loading own => ?_, fun code waits => ?_, fun code pending => ?_, fun code free => ?_,
      fun g code stopping own => ?_, fun code waits => ?_⟩
    all_goals rw [answer, code]
    · rw [State.withdraw_load loading own, State.cancelLoad_eq] <;> rfl
    · rw [State.withdraw_no_load waits]
    · rw [show t.withdraw c x.target .commitSteps = _ from if_pos pending]
    · rw [show t.withdraw c x.target .commitSteps = _ from if_neg free]
    · rw [State.withdraw_stop stopping own]
    · rw [State.withdraw_no_stop waits]

end Sys2Proof.Machine
end

section
/-! The fetch unit's commands and events: queues opened and closed (R122, R123), the fetch start (R128, R130), failed fetch reads (R132, R133), and the statements on them settled. -/

namespace Sys2Proof.Machine

variable {s : State}

/-! ### The fetch start (R128, R130) -/

theorem State.freeSlot_eq_none_iff (s : State) : s.freeSlot = none ↔ ∀ k, s.slot k ≠ .free := by
  simp [State.freeSlot]

/-- A fetch takes the FREE slot of lowest number (log entry 9). -/
theorem State.freeSlot_eq_some_iff (s : State) (k : SlotId) :
    s.freeSlot = some k ↔ s.slot k = .free ∧ ∀ j, j < k → s.slot j ≠ .free := by
  unfold State.freeSlot
  rw [find?_eq_some_iff_of_pairwise (rank := id) (List.pairwise_lt_finRange 16)]
  simp only [List.mem_finRange, true_and, forall_const, beq_iff_eq, id, and_congr_right_iff]
  exact fun _ => ⟨fun least j below free => (least j free).not_gt below, fun lowest j free => not_lt.1 fun below => lowest j below free⟩

theorem State.fetchIdle_iff (s : State) : s.fetchIdle = true ↔ s.engine.state = .running ∧ s.fetch = none := by
  simp [State.fetchIdle]

theorem State.startFetch_of_blocked (h : s.engine.state ≠ .running ∨ s.fetch ≠ none ∨ s.choose = none) : s.startFetch = s := by
  unfold State.startFetch
  split
  · rename_i idle
    obtain ⟨running, no_fetch⟩ := (s.fetchIdle_iff).1 idle
    rw [(h.resolve_left (not_not.2 running)).resolve_left (not_not.2 no_fetch)]
  · rfl

theorem State.startFetch_of_chosen {q b : QueueId} {k : SlotId} (running : s.engine.state = .running) (no_fetch : s.fetch = none)
    (chosen : s.choose = some q) (slot : s.freeSlot = some k) (bound : (s.sq q).boundCq = some b) :
    s.startFetch = s.startFetchFrom q b k := by
  unfold State.startFetch
  rw [if_pos ((s.fetchIdle_iff).2 ⟨running, no_fetch⟩), chosen, slot]
  dsimp only
  rw [bound]

theorem State.startFetchFrom_eq (s : State) (q b : QueueId) (k : SlotId) :
    s.startFetchFrom q b k = { s with
      slots := s.slots.write k (.fetching s.nextAge q b),
      cqs := s.cqs.write b { s.cqs.read b with reserved := (s.cqs.read b).reserved + 1 },
      lastServed := match (s.sq q).priority with
        | .admin => s.lastServed
        | .level n => s.lastServed.write n (some q),
      nextAge := s.nextAge + 1,
      fetch := some { sq := q, index := (s.sq q).head, slot := k },
      port := { s.port with requests := s.port.requests ++
        [{ requester := .fetch q, address := (s.sq q).base + BitVec.ofNat 64 (32 * (s.sq q).head), bytes := [],
           refused := false, discarded := false }] } } := by
  unfold State.startFetchFrom State.serve
  simp only [State.withCq_sq, State.withSlot_sq]
  cases (s.sq q).priority <;> rfl

/-- Settling is the fetch start and what the port then begins. -/
theorem State.settle_eq_startFetch (s : State) : s.settle = { s.startFetch with port := s.settle.port } := by
  unfold State.settle
  obtain ⟨p1, h1⟩ := State.beginTransaction_frame s.startFetch
  obtain ⟨p2, h2⟩ := State.beginTransaction_frame { s.startFetch with port := p1 }
  obtain ⟨p3, h3⟩ := State.beginTransaction_frame { s.startFetch with port := p2 }
  obtain ⟨p4, h4⟩ := State.beginTransaction_frame { s.startFetch with port := p3 }
  rw [h1, h2, h3, h4]

theorem State.settle_resetPin (s : State) : s.settle.resetPin = s.resetPin := by
  obtain ⟨sl, x, f, l, n, p, h⟩ := State.settle_frame s
  rw [h]

/-- In a settled state no fetch start is due (R128). -/
theorem State.startFetch_settle (s : State) : s.settle.startFetch = s.settle := by
  by_cases blocked : s.engine.state ≠ .running ∨ s.fetch ≠ none ∨ s.choose = none
  · apply State.startFetch_of_blocked
    rw [State.settle_eq_startFetch, State.startFetch_of_blocked blocked]
    exact blocked
  · rw [not_or, not_or, not_not, not_not] at blocked
    obtain ⟨running, no_fetch, some_chosen⟩ := blocked
    obtain ⟨q, chosen⟩ := Option.ne_none_iff_exists'.1 some_chosen
    obtain ⟨_, _, free, b, bound, _⟩ := (s.eligible_iff q).1 (State.eligible_of_choose chosen)
    obtain ⟨k, slot⟩ := Option.isSome_iff_exists.1 ((s.freeSlot_isSome).2 free)
    apply State.startFetch_of_blocked
    rw [State.settle_eq_startFetch, State.startFetch_of_chosen running no_fetch chosen slot bound, State.startFetchFrom_eq]
    exact .inr (.inl nofun)

theorem exec_fetchStart (released : s.resetPin = false) : exec .fetchStart s = .next s.startFetch := by
  show Host.Outcome.next (if s.resetPin then s else s.startFetch) = _
  rw [released]
  rfl

/-! ### Failed fetch reads (R132, R133) -/

theorem State.failingFetch_of_fails {f : FetchRecord} (fetch : s.fetch = some f) (fails : s.port.fails (.fetch f.sq) = true) :
    s.failingFetch = some f := by
  unfold State.failingFetch
  rw [fetch]
  exact if_pos fails

theorem State.failingFetch_eq_none (h : ∀ f, s.fetch = some f → s.port.fails (.fetch f.sq) = false) : s.failingFetch = none := by
  unfold State.failingFetch
  cases fetch : s.fetch with
  | none => rfl
  | some f => exact if_neg (ne_true_of_eq_false (h f fetch))

theorem State.failFetch_eq {f : FetchRecord} {age : Nat} {b : QueueId} (slot : s.slot f.slot = .fetching age f.sq b) :
    s.failFetch f = State.offerQueueNotice { s with
      sqs := s.sqs.write f.sq { s.sqs.read f.sq with state := .broken },
      slots := s.slots.write f.slot .free,
      cqs := s.cqs.write b { s.cqs.read b with reserved := (s.cqs.read b).reserved - 1 },
      fetch := none,
      port := { s.port with begun := s.port.begun.eraseP fun x => x.requester == .fetch f.sq } }
      f.sq .sq .sqFetchError := by
  have still : ((s.dropBegun (.fetch f.sq)).withSq f.sq { s.sq f.sq with state := .broken }).slot f.slot =
      .fetching age f.sq b := slot
  unfold State.failFetch State.freeFetchSlot
  rw [still]
  rfl

/-! ### The statements -/

/-- Settles O46: check by check, and a close by whether a slot holds the queue's id. -/
theorem submissionQueuesOpenAndClose : Obligations.SubmissionQueuesOpenAndClose := by
  refine ⟨fun s u k tag queue boundCq priority size base dispatched => ?_, fun s u k tag queue dispatched => ?_⟩
  · have answer := dispatched.answer (State.openSq queue boundCq priority size.toNat base)
    refine ⟨fun outside => ?_, fun q io named => ?_⟩
    all_goals refine answer.trans (congrArg Host.Outcome.next ?_)
    all_goals unfold State.openSq
    · rw [ioQueueOf_of_outside outside]
    · rw [ioQueueOf_of_eq io named]
      dsimp only
      refine if_congr Iff.rfl rfl ?_
      by_cases class_named : priority.toNat ≤ 3
      · rw [priorityOf_of_le class_named]
        refine if_congr ?_ rfl ?_
        · simp only [Bool.not_eq_true', ← Bool.not_eq_true, Bool.and_eq_true, sizeInRange, inRange_iff, isAligned_iff]
          tauto
        · by_cases outside : boundCq = 0 ∨ 7 < boundCq.toNat
          · rw [ioQueueOf_of_outside outside, if_pos outside]
          · rw [ioQueueOf_of_inside outside, if_neg outside]
            refine if_congr Iff.rfl rfl (if_congr ?_ rfl rfl)
            rw [Bool.not_eq_true']
      · rw [priorityOf_of_above class_named, if_pos fun fields => class_named fields.2.2.1]
  · have answer := dispatched.answer (State.closeSq queue)
    refine ⟨fun outside => ?_, fun q io named => ⟨fun closed => ?_, fun j closing => ?_, fun in_use => ⟨fun held => ?_, fun unheld => ?_⟩⟩⟩
    all_goals refine answer.trans (congrArg Host.Outcome.next ?_)
    all_goals unfold State.closeSq
    · rw [ioQueueOf_of_outside outside]
    all_goals rw [ioQueueOf_of_eq io named]
    all_goals dsimp only
    · rw [closed]
    · rw [closing]
    · have waits : u.beginClose q k = u.withSq q { u.sq q with state := .closing (some k) } :=
        if_pos ((u.sqInUse_iff q).2 held)
      rcases in_use with opened | broken
      · rw [opened, ← waits]
      · rw [broken, ← waits]
    · have closes : u.beginClose q k = (u.withSq q { u.sq q with state := .closed }).complete k .success 0 :=
        if_neg fun used => by
          obtain ⟨j, holds⟩ := (u.sqInUse_iff q).1 used
          exact unheld j holds
      rcases in_use with opened | broken
      · rw [opened, ← closes]
      · rw [broken, ← closes]

/-- Settles O48: a fetch starts exactly where none of the three conditions blocks it, and settling has started it. -/
theorem fetchStartsOnTheChosenQueue : Obligations.FetchStartsOnTheChosenQueue := by
  intro s released
  refine ⟨fun t started => ?_, s.freeSlot_eq_none_iff, s.freeSlot_eq_some_iff, fun blocked => ?_,
    fun q k b running no_fetch chosen slot bound => ?_⟩
  · rw [exec_fetchStart released] at started
    cases started
    refine ⟨s.settle_eq_startFetch, ?_⟩
    rw [exec_fetchStart (s.settle_resetPin.trans released), State.startFetch_settle]
  · rw [exec_fetchStart released, State.startFetch_of_blocked blocked]
  · rw [exec_fetchStart released, State.startFetch_of_chosen running no_fetch chosen slot bound]
    exact congrArg Host.Outcome.next (State.startFetchFrom_eq s q b k)

/-- Settles O49: by whether a read may fail, and of which queue, and else by the discarded reads. -/
theorem failedFetchesBreakTheQueue : Obligations.FailedFetchesBreakTheQueue := by
  have io (s : State) (released : s.resetPin = false) : exec .fetchReadError s = .next s.settle.fetchReadError :=
    atEvent_of released
  have admin (s : State) (released : s.resetPin = false) : exec .adminFetchError s = .next s.settle.adminFetchError :=
    atEvent_of released
  refine ⟨fun s f age b t released fetch fails slot ht => ?_, fun s released silent => ?_⟩
  · rw [io s released, admin s released, ht, ← State.failFetch_eq slot]
    unfold State.fetchReadError State.adminFetchError
    rw [State.failingFetch_of_fails fetch fails]
    exact ⟨fun ne => ⟨congrArg Host.Outcome.next (if_neg ne), congrArg Host.Outcome.next (if_neg ne)⟩,
      fun eq => ⟨congrArg Host.Outcome.next (if_pos eq), congrArg Host.Outcome.next (if_pos eq)⟩⟩
  · rw [io s released, admin s released]
    unfold State.fetchReadError State.adminFetchError
    rw [State.failingFetch_eq_none silent]
    refine ⟨fun q discarded others => ?_, fun kept => ?_⟩
    · dsimp only
      rw [State.dropDiscardedFetch_eq _ q discarded others]
      exact ⟨rfl, rfl⟩
    · dsimp only
      rw [State.dropDiscardedFetch_none _ kept]
      exact ⟨rfl, rfl⟩

end Sys2Proof.Machine
end

section
/-! Completion queues opened and closed (R141, R142), the ends of their ring writes (R147, R151, R153, R154), post and release writes (R125, R149, R150), the vectors (R151, R152), and the statements on them settled. -/

namespace Sys2Proof.Machine

variable {s : State}

/-! ### Closing a completion queue (R142) -/

theorem State.isBound_iff (s : State) (q : QueueId) :
    s.isBound q = true ↔ ∃ i, (s.sq i).state ≠ .closed ∧ (s.sq i).boundCq = some q := by
  simp [State.isBound]

theorem State.isReportCq_iff (s : State) (q : QueueId) :
    s.isReportCq q = true ↔ ∃ c, (s.channel c).settings.reportCq = some q ∨ ∃ h, (s.channel c).seq.held = some h ∧ h.cq = q := by
  unfold State.isReportCq
  simp only [List.any_eq_true, List.mem_finRange, true_and, Bool.or_eq_true, beq_iff_eq]
  refine exists_congr fun c => or_congr Iff.rfl ?_
  cases (s.channel c).seq.held <;> simp

/-! ### The ends of ring writes (R147, R153) -/

theorem CqContext.afterWrite_of_cons {x : CqContext} {r : CqRecord} {rest : List CqRecord} (h : x.list = r :: rest) :
    x.afterWrite = { x with
      list := rest, tail := (x.tail + 1) % x.size,
      pass := if (x.tail + 1) % x.size = 0 then !x.pass else x.pass } := by
  unfold CqContext.afterWrite
  rw [h]
  rfl

theorem State.cqWriteDone_of_answers {q : QueueId} {r : CqRecord} {rest : List CqRecord}
    (answers : s.port.answers (.cqWrite q) = true) (list : (s.cq q).list = r :: rest) :
    s.cqWriteDone q =
      if s.engine.state = .halting then ((s.ended (.cqWrite q)).withCq q (s.cq q).afterWrite).endHaltIfDone
      else (((s.ended (.cqWrite q)).withCq q (s.cq q).afterWrite).withVectors (s.vectors.count q (s.cq q) r)).handCqWrite q := by
  unfold State.cqWriteDone
  rw [if_pos answers, list]
  rfl

theorem CqRecord.isUrgent_iff (r : CqRecord) :
    r.isUrgent = true ↔ (∃ c x, r = .channelNotice c x) ∨ ∃ i x y, r = .queueNotice i x y := by
  cases r <;> simp [CqRecord.isUrgent]

theorem VectorUnit.count_of_none {v : VectorUnit} {q : QueueId} {x : CqContext} (r : CqRecord) (h : x.vector = none) :
    v.count q x r = v := by
  unfold VectorUnit.count
  rw [h]

/-- A record that reaches the threshold or will not wait signals the vector (R151). -/
theorem VectorUnit.count_of_signal {v : VectorUnit} {q : QueueId} {x : CqContext} {r : CqRecord} {n : Fin 4}
    (h : x.vector = some n) (signals : x.threshold ≤ v.unsignalled.read q + 1 ∨ r.isUrgent = true) :
    v.count q x r = { v with
      unsignalled := v.unsignalled.write q 0, timers := v.timers.write q none, pending := v.pending ||| (1#4 <<< n.val) } := by
  unfold VectorUnit.count
  rw [h]
  dsimp only
  rw [if_pos signals]
  unfold VectorUnit.signal VectorUnit.clearQueue
  simp only [Table.write_write]

theorem VectorUnit.count_of_wait {v : VectorUnit} {q : QueueId} {x : CqContext} {r : CqRecord} {n : Fin 4}
    (h : x.vector = some n) (waits : ¬(x.threshold ≤ v.unsignalled.read q + 1 ∨ r.isUrgent = true)) :
    v.count q x r = { v with
      unsignalled := v.unsignalled.write q (v.unsignalled.read q + 1),
      timers := v.timers.write q (if v.unsignalled.read q = 0 ∧ x.time ≠ 0 then some 0 else v.timers.read q) } := by
  unfold VectorUnit.count
  rw [h]
  exact if_neg waits

/-- What a failed write leaves of its CQ, its vector and the notices held for it (R153 items 1 to 3). -/
theorem State.breakCq_eq (s : State) (q : QueueId) :
    (s.dropBegun (.cqWrite q)).breakCq q = { s with
      cqs := s.cqs.write q { s.cqs.read q with state := .broken, list := [] },
      vectors := { s.vectors with unsignalled := s.vectors.unsignalled.write q 0, timers := s.vectors.timers.write q none },
      channels := s.channels.map fun ch => match ch.seq.held with
        | some h => if h.cq = q then ch.withHeld none else ch
        | none => ch,
      port := { s.port with begun := s.port.begun.eraseP fun x => x.requester == .cqWrite q } } := rfl

/-! ### The statements -/

/-- Settles O51: check by check. -/
theorem completionQueuesOpenAndClose : Obligations.CompletionQueuesOpenAndClose := by
  refine ⟨fun s u k tag queue vector threshold time size base dispatched => ?_, fun s u k tag queue dispatched => ?_⟩
  · have answer := dispatched.answer (State.openCq queue vector threshold time size.toNat base)
    refine ⟨fun outside => ?_, fun q io named => ?_⟩
    all_goals refine answer.trans (congrArg Host.Outcome.next ?_)
    all_goals unfold State.openCq
    · rw [ioQueueOf_of_outside outside]
    · rw [ioQueueOf_of_eq io named]
      dsimp only
      refine if_congr Iff.rfl rfl ?_
      by_cases vector_named : vector.toNat ≤ 3 ∨ vector = 0xFF
      · rw [vectorOf_of_named vector_named]
        refine if_congr ?_ rfl (if_congr ?_ rfl rfl)
        · simp only [Bool.not_eq_true', ← Bool.not_eq_true, Bool.and_eq_true, sizeInRange, inRange_iff, isAligned_iff]
          tauto
        · rw [Bool.not_eq_true']
      · rw [vectorOf_of_unnamed vector_named, if_pos fun fields => vector_named fields.2.2.2.1]
  · have answer := dispatched.answer (State.closeCq queue)
    refine ⟨fun outside => ?_, fun q io named => ⟨fun closed => ?_, fun not_closed kept => ?_, fun not_closed unbound unnamed empty => ?_⟩⟩
    all_goals refine answer.trans (congrArg Host.Outcome.next ?_)
    all_goals unfold State.closeCq
    · rw [ioQueueOf_of_outside outside]
    all_goals rw [ioQueueOf_of_eq io named]
    all_goals dsimp only
    · rw [if_pos closed]
    all_goals rw [if_neg not_closed]
    · refine if_pos ?_
      simp only [Bool.or_eq_true, State.isBound_iff, State.isReportCq_iff, Bool.not_eq_true', List.isEmpty_eq_false_iff, or_assoc]
      exact kept
    · refine if_neg ?_
      simp only [Bool.or_eq_true, State.isBound_iff, State.isReportCq_iff, Bool.not_eq_true', List.isEmpty_eq_false_iff, or_assoc]
      rintro (⟨i, live, bound⟩ | ⟨c, reports | ⟨h, held, cq⟩⟩ | waiting)
      · exact unbound i live bound
      · exact (unnamed c).1 reports
      · exact (unnamed c).2 h held cq
      · exact waiting empty

/-- Settles O52: by the engine, the vector and the threshold. -/
theorem ringWritesMoveTheTail : Obligations.RingWritesMoveTheTail := by
  intro s t q r rest released answers list ht
  have answer : exec (.cqWriteDone q) s = .next
      (if s.engine.state = .halting then t.endHaltIfDone
      else (t.withVectors (s.settle.vectors.count q (s.settle.cq q) r)).handCqWrite q) := by
    refine (atEvent_of (f := fun u => u.cqWriteDone q) released).trans (congrArg Host.Outcome.next ?_)
    rw [State.cqWriteDone_of_answers answers list, CqContext.afterWrite_of_cons list, State.settle_engine, ht]
  have engine : t.engine = s.engine := by
    rw [ht]
    exact s.settle_engine
  rw [answer]
  refine ⟨fun halting => ?_, fun running unnamed => ?_, fun n running named => ⟨fun signals => ?_, fun below no_channel no_queue => ?_⟩⟩
  · rw [if_pos halting, State.endHaltIfDone_eq, engine]
    simp only [halting, true_and]
  · rw [if_neg running, VectorUnit.count_of_none r unnamed, State.handCqWrite_eq]
    rw [ht]
    rfl
  · rw [if_neg running, VectorUnit.count_of_signal named (signals.imp_right (CqRecord.isUrgent_iff r).2), State.handCqWrite_eq]
  · rw [if_neg running, VectorUnit.count_of_wait named, State.handCqWrite_eq]
    rintro (reached | urgent)
    · omega
    · rcases (CqRecord.isUrgent_iff r).1 urgent with ⟨c, x, notice⟩ | ⟨i, x, y, notice⟩
      · exact no_channel c x notice
      · exact no_queue i x y notice

/-- Settles O53: by the queue and the engine. -/
theorem failedRingWritesBreakTheQueue : Obligations.FailedRingWritesBreakTheQueue := by
  intro s t q released fails ht
  obtain rfl : t = (s.settle.dropBegun (.cqWrite q)).breakCq q := ht.trans (State.breakCq_eq s.settle q).symm
  have io (ne : q ≠ 0) : exec (.cqWriteError q) s = .next (s.settle.cqWriteError q) :=
    (if_neg ne).trans (atEvent_of (f := fun u => u.cqWriteError q) released)
  have admin : exec .adminWriteError s = .next s.settle.adminWriteError := atEvent_of released
  refine ⟨fun ne running => ?_, fun ne halting => ?_, ?_, ?_, ?_⟩
  · rw [io ne]
    unfold State.cqWriteError
    rw [if_pos fails, State.settle_engine, if_neg running]
  · rw [io ne]
    unfold State.cqWriteError
    rw [if_pos fails, State.settle_engine, if_pos halting, State.endDiscarded_eq]
  all_goals rintro rfl state
  all_goals rw [admin]
  all_goals unfold State.adminWriteError
  all_goals rw [if_pos fails, State.settle_engine, state]
  · rfl
  · rfl
  · exact congrArg Host.Outcome.next (State.endDiscarded_eq _ _)

/-- Settles O54: by the checks of the post and of the release. -/
theorem postsAndReleasesAreChecked : Obligations.PostsAndReleasesAreChecked := by
  intro s q x released
  have posts : exec (.post q x) s = .next (s.settle.post q x.toNat) := atEvent_of (f := fun u => u.post q x.toNat) released
  have releases : exec (.release q x) s = .next (s.settle.release q x.toNat) :=
    atEvent_of (f := fun u => u.release q x.toNat) released
  have ignored (i : QueueId) (kind : QueueKind) (cause : NoticeCause) (halting : s.engine.state = .halting) :
      s.settle.offerQueueNotice i kind cause = s.settle := by
    unfold State.offerQueueNotice
    rw [State.accepts_eq_false 0 (.inr (by rw [State.settle_engine, halting]))]
    rfl
  have accepted := State.releaseAccepted_iff s.settle q x.toNat
  rw [State.settle_engine] at accepted
  rw [posts, releases]
  unfold State.post State.release
  refine ⟨fun running opened fits => ?_, fun running refused => ?_, fun halting => ⟨?_, ?_⟩, fun running refused => ?_,
    fun t running opened fits written ht => ?_⟩
  · rw [State.settle_engine, if_pos ⟨running, opened, fits⟩]
  · rw [if_neg]
    rintro ⟨_, opened, fits⟩
    exact refused.elim (fun h => h opened) fun h => by omega
  · rw [State.settle_engine, if_neg fun h => h.1 halting, ignored _ _ _ halting]
  · rw [if_neg fun h => (accepted.1 h).1 halting, ignored _ _ _ halting]
  · rw [if_neg]
    intro h
    obtain ⟨_, opened, fits, written⟩ := accepted.1 h
    rcases refused with unopened | beyond | unwritten
    · exact unopened opened
    · omega
    · exact written.not_gt unwritten
  · rw [if_pos (accepted.2 ⟨running, opened, fits, written⟩), ← ht]
    rfl

/-- Settles O55: by the timer and the vector of the CQ. -/
theorem vectorsSignalAndClear : Obligations.VectorsSignalAndClear := by
  intro s bits q released
  have expires : exec (.coalescingTimerExpiry q) s = .next (s.settle.expireTimer q) :=
    atEvent_of (f := fun u => u.expireTimer q) released
  refine ⟨atEvent_of (f := fun u => u.withVectors { u.vectors with pending := u.vectors.pending &&& ~~~bits }) released,
    atEvent_of (f := fun u => u.withVectors { u.vectors with mask := bits }) released, fun n m runs named => ?_, fun stopped => ?_, fun i small => ?_, ?_⟩
  · rw [expires]
    unfold State.expireTimer
    rw [runs, named]
    rfl
  · rw [expires]
    unfold State.expireTimer
    rw [stopped]
  · simp [State.interruptLines, small]
  · rfl

end Sys2Proof.Machine
end

section
/-! The window checker (R164, R168), transactions as the port begins and ends them (R159 to R162, R165, R167), and the two statements on them settled. -/

namespace Sys2Proof.Machine

variable {s : State}

/-! ### Windows (R164, R168) -/

theorem Window.grants_iff (w : Window) (d : Direction) :
    w.grants d = true ↔ match d with
      | .read => w.grantsRead = true
      | .write => w.grantsWrite = true := by
  cases d <;> rfl

theorem inOneWindow_iff (ws : Table 4 Window) (d : Direction) (start len : Nat) :
    inOneWindow ws d start len = true ↔
      start + len ≤ 2 ^ 64 ∧ ∃ i : Fin 4, (ws.read i).length ≠ 0 ∧ (ws.read i).grants d = true ∧
        (ws.read i).base.toNat ≤ start ∧ start + len ≤ (ws.read i).base.toNat + (ws.read i).length := by
  simp [inOneWindow, Window.covers, and_assoc]

theorem windowFrom_of_zero (rights : Byte) (base : Addr) : windowFrom rights 0 base = some .disabled := rfl

/-- The window an enabling SET_WINDOW writes, its fields in their ranges (R168 check 1). -/
theorem windowFrom_of_valid {rights : Byte} {length : Nat} {base : Addr} (enables : length ≠ 0)
    (range : length % 64 = 0 ∧ length ≤ 4294967232 ∧ base.toNat % 64 = 0 ∧ base.toNat + length ≤ 2 ^ 64)
    (used : rights ≠ 0 ∧ rights.toNat ≤ 3) :
    windowFrom rights length base =
      some { base := base, length := length, grantsRead := rights.getLsbD 0, grantsWrite := rights.getLsbD 1 } := by
  obtain ⟨multiple, bound, aligned, top⟩ := range
  unfold windowFrom
  rw [if_neg enables, rightsOf_of_used used.1 used.2]
  exact if_pos ⟨multiple, bound, (isAligned_iff _ _).2 aligned, top⟩

theorem windowFrom_of_invalid {rights : Byte} {length : Nat} {base : Addr} (enables : length ≠ 0)
    (invalid : length % 64 ≠ 0 ∨ 4294967232 < length ∨ base.toNat % 64 ≠ 0 ∨ 2 ^ 64 < base.toNat + length ∨
      rights = 0 ∨ 3 < rights.toNat) : windowFrom rights length base = none := by
  unfold windowFrom
  rw [if_neg enables]
  by_cases used : rights = 0 ∨ 3 < rights.toNat
  · rw [rightsOf_of_unused used]
  · have range : ¬(length % 64 = 0 ∧ length ≤ 4294967232 ∧ isAligned 64 base = true ∧ base.toNat + length ≤ 2 ^ 64) := by
      rintro ⟨multiple, bound, aligned, top⟩
      rw [isAligned_iff] at aligned
      rcases invalid with h | h | h | h | h
      · exact h multiple
      · exact h.not_ge bound
      · exact h aligned
      · exact h.not_ge top
      · exact used h
    cases rightsOf rights with
    | none => rfl
    | some grants => exact if_neg range

theorem State.dataInFlight_iff (s : State) : s.dataInFlight = true ↔ ∃ k, (s.slot k).movesData = true := by
  simp [State.dataInFlight]

theorem State.setWindow_of_fields {number rights : Byte} {length : Nat} {base : Addr} {n : Fin 4} {w : Window}
    (named : windowOf number = some n) (fields : windowFrom rights length base = some w) (k : SlotId) :
    State.setWindow number rights length base k s =
      if s.dataInFlight = true ∨ s.ringsCovered (s.windows.write n w) = false then s.complete k .stateConflict 0
      else State.complete { s with windows := s.windows.write n w } k .success 0 := by
  unfold State.setWindow
  rw [named, fields]
  dsimp only
  simp only [Bool.or_eq_true, Bool.not_eq_true']

/-! ### Beginnings (R160, R167) -/

theorem Port.holds_iff (p : Port) (r : Requester) :
    p.holds r = true ↔ ∃ t, (t ∈ p.requests ∨ t ∈ p.begun) ∧ t.requester = r := by
  simp only [Port.holds, List.any_eq_true, List.mem_append, beq_iff_eq]

theorem Port.begunOf_eq_none_iff (p : Port) (r : Requester) : p.begunOf r = none ↔ ∀ t ∈ p.begun, t.requester ≠ r := by
  simp [Port.begunOf]

theorem State.beginTransaction_of_idle (h : s.port.requests = [] ∨ 4 ≤ s.port.begun.length) : s.beginTransaction = s := by
  unfold State.beginTransaction
  split
  · rfl
  · rename_i t rest requests
    refine if_neg fun room => ?_
    rcases h with none_waits | full
    · rw [none_waits] at requests
      cases requests
    · omega

theorem State.beginTransaction_of_request {t : Transaction} {rest : List Transaction} (requests : s.port.requests = t :: rest)
    (room : s.port.begun.length < 4) :
    s.beginTransaction = { s with port := {
      requests := rest,
      begun := s.port.begun ++ [{ t with bytes := s.bytesOf t.requester, refused := !s.allowed t }] } } := by
  unfold State.beginTransaction
  rw [requests]
  exact if_pos room

/-- Each beginning takes a request or finds the list empty or the set full. -/
theorem State.beginTransaction_fills {n : Nat} (few : n < 4) (h : s.port.requests = [] ∨ n ≤ s.port.begun.length) :
    s.beginTransaction.port.requests = [] ∨ n + 1 ≤ s.beginTransaction.port.begun.length := by
  cases requests : s.port.requests with
  | nil =>
    rw [State.beginTransaction_of_idle (.inl requests)]
    exact .inl requests
  | cons t rest =>
    have begun := h.resolve_left (by rw [requests]; exact nofun)
    right
    by_cases room : s.port.begun.length < 4
    · rw [State.beginTransaction_of_request requests room]
      simpa using begun
    · rw [State.beginTransaction_of_idle (.inr (not_lt.1 room))]
      omega

/-- A snapshot write carries the snapshot of its command's channel (R117, R118). -/
theorem State.bytesOf_snapshot {k : SlotId} {c : ChannelId} (h : s.snapshotChannel k = some c) :
    s.bytesOf (.snapshot k) = (s.channel c).snapshot := by
  unfold State.bytesOf
  dsimp only
  rw [h]

/-- A CQ write carries the oldest record with the pass marker (R147, R160). -/
theorem State.bytesOf_cqWrite {q : QueueId} {r : CqRecord} {l : List CqRecord} (h : (s.cq q).list = r :: l) :
    s.bytesOf (.cqWrite q) = r.toBytes (s.cq q).pass := by
  unfold State.bytesOf
  dsimp only
  rw [h]

theorem exec_portBeginTransaction (released : s.resetPin = false) : exec .portBeginTransaction s = .next s.beginTransaction := by
  show Host.Outcome.next (if s.resetPin then s else s.beginTransaction) = _
  rw [released]
  rfl

theorem State.beginTransaction_resetPin (s : State) : s.beginTransaction.resetPin = s.resetPin := by
  obtain ⟨p, h⟩ := State.beginTransaction_frame s
  rw [h]

theorem State.startFetch_resetPin (s : State) : s.startFetch.resetPin = s.resetPin := by
  obtain ⟨_, _, _, _, _, _, h⟩ := State.startFetch_frame s
  rw [h]

/-- The window checker refuses what lies in no window that grants the direction; the admin rings are exempt (R165, R167). -/
theorem State.refused_iff (s : State) (t : Transaction) :
    (!s.allowed t) = true ↔ match t.requester with
      | .fetch q => q ≠ 0 ∧ inOneWindow s.windows .read t.address.toNat 32 = false
      | .load _ => inOneWindow s.windows .read t.address.toNat 16 = false
      | .snapshot _ => inOneWindow s.windows .write t.address.toNat 32 = false
      | .cqWrite q => q ≠ 0 ∧ inOneWindow s.windows .write t.address.toNat 16 = false := by
  unfold State.allowed
  cases t.requester <;> simp [isExempt, directionOf, transferSize]

/-! ### Ends of discarded transactions (R162) -/

theorem State.discardedEnd_of_discarded {r : Requester} (discarded : s.port.hasDiscarded r = true)
    (no_load : ∀ c l, r = .load c → (s.channel c).store.standby ≠ .loading l) : s.discardedEnd r = s.endedUnused r := by
  unfold State.discardedEnd
  rw [if_pos discarded]
  cases r with
  | load c =>
    exact State.endOldLoadRead_eq (fun _ => rfl) fun l loading => absurd loading (no_load c l rfl)
  | fetch q | snapshot k | cqWrite q => exact s.endDiscarded_eq _

theorem State.discardedEnd_of_load {c : ChannelId} {l : Load} (discarded : s.port.hasDiscarded (.load c) = true)
    (running : s.engine.state ≠ .halting) (loading : (s.channel c).store.standby = .loading l)
    (alone : (s.ended (.load c)).port.holds (.load c) = false) :
    s.discardedEnd (.load c) = (s.ended (.load c)).handed (.load c) (l.source + BitVec.ofNat 64 (16 * l.buffer.length)) := by
  unfold State.discardedEnd
  rw [if_pos discarded]
  refine State.endOldLoadRead_eq (fun none_loads => absurd loading (none_loads l)) fun other same => ⟨running, ?_⟩
  rw [loading] at same
  cases same
  rw [alone]
  rfl

/-! ### The statements -/

/-- Settles O56: the three conditions of the test, and SET_WINDOW check by check. -/
theorem setWindowIsChecked : Obligations.SetWindowIsChecked := by
  refine ⟨fun ws d start len => ?_, fun s u k tag number rights length base dispatched => ?_⟩
  · rw [inOneWindow_iff]
    cases d <;> rfl
  · have answer := dispatched.answer (State.setWindow number rights length.toNat base)
    have zero : length = 0 ↔ length.toNat = 0 := by
      rw [← BitVec.toNat_inj]
      rfl
    refine ⟨fun invalid => ?_, fun n w named disabled enabled => ?_⟩
    · refine answer.trans (congrArg Host.Outcome.next ?_)
      unfold State.setWindow
      rcases invalid with above | ⟨enables, invalid⟩
      · rw [windowOf_of_above above]
      · rw [windowFrom_of_invalid (zero.not.1 enables) invalid]
        cases windowOf number <;> rfl
    · have fields : windowFrom rights length.toNat base = some w := by
        by_cases disables : length = 0
        · rw [zero.1 disables, disabled disables]
          rfl
        · obtain ⟨multiple, bound, aligned, top, used, small, rfl⟩ := enabled disables
          exact windowFrom_of_valid (zero.not.1 disables) ⟨multiple, bound, aligned, top⟩ ⟨used, small⟩
      have checked := State.setWindow_of_fields (s := u) (windowOf_of_eq named) fields k
      refine ⟨fun conflict => ?_, fun quiet covered => ?_⟩
      all_goals refine answer.trans (congrArg Host.Outcome.next (checked.trans ?_))
      · refine if_pos (conflict.imp (u.dataInFlight_iff).2 ?_)
        rintro ⟨q, io, uncovered⟩
        rw [← Bool.not_eq_true, State.ringsCovered_iff]
        intro rings
        obtain ⟨sq, cq⟩ := rings q io
        rcases uncovered with ⟨opened, outside⟩ | ⟨opened, outside⟩
        · exact ne_true_of_eq_false outside (sq opened)
        · exact ne_true_of_eq_false outside (cq opened)
      · refine if_neg ?_
        rintro (moves | uncovered)
        · obtain ⟨j, moves⟩ := (u.dataInFlight_iff).1 moves
          exact ne_true_of_eq_false (quiet j) moves
        · exact ne_true_of_eq_false uncovered ((State.ringsCovered_iff _ _).2 covered)

/-- Settles O57: the begun set by its lookups, beginnings by the room and the request, ends by the requester. -/
theorem transactionsBeginAndEnd : Obligations.TransactionsBeginAndEnd := by
  refine ⟨fun p r => ⟨p.holds_iff r, p.answers_iff r, p.fails_iff r, p.hasDiscarded_iff r,
      fun t => Port.begunOf_eq_some, p.begunOf_eq_none_iff r⟩,
    fun s t₀ t₁ t₂ t₃ t₄ released e₀ e₁ e₂ e₃ e₄ => ?_, fun s released => ⟨fun idle => ?_, fun t rest requests room => ?_⟩,
    fun s r released => ⟨fun discarded no_load => ?_, fun kept => ?_, fun c l load discarded running loading alone => ?_⟩⟩
  · have begins {t u : State} (pin : t.resetPin = false) (e : exec .portBeginTransaction t = .next u) :
        t.beginTransaction = u ∧ u.resetPin = false := by
      rw [exec_portBeginTransaction pin] at e
      cases e
      exact ⟨rfl, t.beginTransaction_resetPin.trans pin⟩
    rw [exec_fetchStart released] at e₀
    cases e₀
    obtain ⟨rfl, pin₁⟩ := begins (s.startFetch_resetPin.trans released) e₁
    obtain ⟨rfl, pin₂⟩ := begins pin₁ e₂
    obtain ⟨rfl, pin₃⟩ := begins pin₂ e₃
    obtain ⟨rfl, _⟩ := begins pin₃ e₄
    have filled := State.beginTransaction_fills (s := s.startFetch) (n := 0) (by decide) (.inr (Nat.zero_le _))
    exact ⟨rfl, State.beginTransaction_fills (by decide) (State.beginTransaction_fills (by decide)
      (State.beginTransaction_fills (by decide) filled))⟩
  · rw [exec_portBeginTransaction released, State.beginTransaction_of_idle idle]
  · refine ⟨s.bytesOf t.requester, !s.allowed t, ?_, ?_, fun k w c snapshot working channel => ?_, fun x fetch => ?_,
      fun x load => ?_, fun q r l write list => ?_⟩
    · rw [exec_portBeginTransaction released, State.beginTransaction_of_request requests room]
    · exact (s.refused_iff t).trans (by cases t.requester <;> rfl)
    · have sampled : s.snapshotChannel k = some c := by
        unfold State.snapshotChannel
        rw [working]
        exact channel
      rw [snapshot, State.bytesOf_snapshot sampled]
    · rw [fetch]
      rfl
    · rw [load]
      rfl
    · rw [write, State.bytesOf_cqWrite list]
  all_goals refine (atEvent_of (f := fun u => u.discardedEnd _) released).trans (congrArg Host.Outcome.next ?_)
  · exact State.discardedEnd_of_discarded discarded no_load
  · exact if_neg (ne_true_of_eq_false kept)
  · subst load
    exact State.discardedEnd_of_load discarded (by rwa [State.settle_engine]) loading alone

end Sys2Proof.Machine
end

section
/-! Engine control: the enable (R173, R174), the registers as they are written and read back (R172, R175, R183, R188), the halt and its end (R176, R177), and the statements on them settled. -/

namespace Sys2Proof.Machine

variable {s : State}

/-! ### The enable (R173) -/

theorem Engine.adminValid_iff (e : Engine) :
    e.adminValid = true ↔
      4 ≤ e.adminSqSize.toNat ∧ e.adminSqSize.toNat ≤ 256 ∧ 4 ≤ e.adminCqSize.toNat ∧ e.adminCqSize.toNat ≤ 256 ∧
        e.adminSqBase.toNat % 64 = 0 ∧ e.adminCqBase.toNat % 64 = 0 ∧
        e.adminSqBase.toNat + 32 * e.adminSqSize.toNat ≤ 2 ^ 64 ∧ e.adminCqBase.toNat + 16 * e.adminCqSize.toNat ≤ 2 ^ 64 := by
  simp only [Engine.adminValid, Bool.and_eq_true, inRange_iff, isAligned_iff, decide_eq_true_eq, and_assoc]

/-! ### Register words (R188) -/

/-- The word of the two admin ring sizes holds each in its nine bits. -/
theorem sizesWord_getLsbD (sq cq : BitVec 9) {i : Nat} (h : i < 32) :
    (BitVec.ofNat 32 (sq.toNat + 65536 * cq.toNat)).getLsbD i = if i < 16 then sq.getLsbD i else cq.getLsbD (i - 16) := by
  have split : sq.toNat + 65536 * cq.toNat = 2 ^ 16 * cq.toNat + sq.toNat := Nat.add_comm _ _
  have bound : sq.toNat < 2 ^ 16 := sq.isLt.trans (by decide)
  rw [BitVec.getLsbD_ofNat, split, Nat.testBit_two_pow_mul_add _ bound]
  simp only [h, decide_true, Bool.true_and, BitVec.testBit_toNat]

theorem sizesMask_getLsbD {i : Nat} (h : i < 32) :
    (0x01FF01FF : BitVec 32).getLsbD i = decide (i < 9 ∨ (16 ≤ i ∧ i < 25)) := by
  have bits : ∀ j : Fin 32, (0x01FF01FF : BitVec 32).getLsbD j.val = decide (j.val < 9 ∨ (16 ≤ j.val ∧ j.val < 25)) := by decide
  exact bits ⟨i, h⟩

/-- The sizes written are read back in the bits they hold (R175, R188). -/
theorem sizesWord_written (value : BitVec 32) :
    BitVec.ofNat 32 ((value.extractLsb' 0 9).toNat + 65536 * (value.extractLsb' 16 9).toNat) = value &&& 0x01FF01FF := by
  refine BitVec.eq_of_getLsbD_eq fun i h => ?_
  rw [sizesWord_getLsbD _ _ h, BitVec.getLsbD_and, sizesMask_getLsbD h, BitVec.getLsbD_extractLsb', BitVec.getLsbD_extractLsb']
  by_cases low : i < 16
  · have high : ¬16 ≤ i := not_le.2 low
    simp [low, high, Bool.and_comm]
  · have above : 16 + (i - 16) = i := by omega
    have top : ¬i < 9 := by omega
    have width : i - 16 < 9 ↔ i < 25 := by omega
    simp [low, above, top, width, not_lt.1 low, Bool.and_comm]

theorem sizesWord_masked (sq cq : BitVec 9) :
    BitVec.ofNat 32 (sq.toNat + 65536 * cq.toNat) &&& 0x01FF01FF = BitVec.ofNat 32 (sq.toNat + 65536 * cq.toNat) := by
  refine BitVec.eq_of_getLsbD_eq fun i h => ?_
  rw [BitVec.getLsbD_and, sizesMask_getLsbD h, sizesWord_getLsbD _ _ h]
  by_cases low : i < 16
  · rw [if_pos low]
    by_cases held : i < 9
    · simp [held]
    · simp [BitVec.getLsbD_of_ge sq i (not_lt.1 held)]
  · rw [if_neg low]
    by_cases held : i - 16 < 9
    · have inside : 16 ≤ i ∧ i < 25 := by omega
      simp [inside]
    · simp [BitVec.getLsbD_of_ge cq (i - 16) (not_lt.1 held)]

/-- The bytes of the status word are its three codes. -/
theorem statusWord_extract {a b c : Nat} (ha : a < 256) (hb : b < 256) (hc : c < 256) :
    (BitVec.ofNat 32 (a + 256 * b + 65536 * c)).extractLsb' 0 8 = BitVec.ofNat 8 a ∧
    (BitVec.ofNat 32 (a + 256 * b + 65536 * c)).extractLsb' 8 8 = BitVec.ofNat 8 b ∧
    (BitVec.ofNat 32 (a + 256 * b + 65536 * c)).extractLsb' 16 8 = BitVec.ofNat 8 c ∧
    (BitVec.ofNat 32 (a + 256 * b + 65536 * c)).extractLsb' 24 8 = 0 := by
  have fits : (a + 256 * b + 65536 * c) % 2 ^ 32 = a + 256 * b + 65536 * c := Nat.mod_eq_of_lt (by omega)
  refine ⟨?_, ?_, ?_, ?_⟩
  all_goals apply BitVec.eq_of_toNat_eq
  all_goals rw [BitVec.extractLsb'_toNat, BitVec.toNat_ofNat, fits, Nat.shiftRight_eq_div_pow]
  · rw [BitVec.toNat_ofNat]
    omega
  · rw [BitVec.toNat_ofNat]
    omega
  · rw [BitVec.toNat_ofNat]
    omega
  · show _ = 0
    omega

theorem EngineState.toCode_lt (x : EngineState) : x.toCode < 256 := by cases x <;> decide
theorem EngineCause.toCode_lt (x : EngineCause) : x.toCode < 256 := by cases x <;> decide
theorem LastReset.toCode_lt (x : LastReset) : x.toCode < 256 := by cases x <;> decide

theorem State.readRegister_of_above (s : State) {offset : BitVec 6} (h : 0x2C ≤ offset.toNat) : s.readRegister offset = 0 := by
  have ne (x : BitVec 6) (small : x.toNat < 0x2C) : offset ≠ x := by
    rintro rfl
    omega
  unfold State.readRegister
  rw [if_neg (ne 0x00 (by decide)), if_neg (ne 0x04 (by decide)), if_neg (ne 0x08 (by decide)), if_neg (ne 0x0C (by decide)),
    if_neg (ne 0x10 (by decide)), if_neg (ne 0x14 (by decide)), if_neg (ne 0x18 (by decide)), if_neg (ne 0x24 (by decide)),
    if_neg (ne 0x28 (by decide))]

/-- A word put together from two halves reads back as them. -/
theorem append_halves (high low : BitVec 32) :
    (high ++ low : Addr).extractLsb' 0 32 = low ∧ (high ++ low : Addr).extractLsb' 32 32 = high := by
  constructor
  all_goals refine BitVec.eq_of_getLsbD_eq fun i h => ?_
  all_goals rw [BitVec.getLsbD_extractLsb', BitVec.getLsbD_append]
  · simp [h]
  · simp [h]

/-- The five admin registers read their own items of the engine. -/
theorem State.readRegister_withRegister (s : State) (e : Engine) (value : BitVec 32) (r : AdminRegister) :
    State.readRegister { s with engine := e.withRegister value r } 0x08 =
      (if r = .sqBaseLow then value else e.adminSqBase.extractLsb' 0 32) ∧
    State.readRegister { s with engine := e.withRegister value r } 0x0C =
      (if r = .sqBaseHigh then value else e.adminSqBase.extractLsb' 32 32) ∧
    State.readRegister { s with engine := e.withRegister value r } 0x10 =
      (if r = .cqBaseLow then value else e.adminCqBase.extractLsb' 0 32) ∧
    State.readRegister { s with engine := e.withRegister value r } 0x14 =
      (if r = .cqBaseHigh then value else e.adminCqBase.extractLsb' 32 32) ∧
    State.readRegister { s with engine := e.withRegister value r } 0x18 =
      (if r = .sizes then value &&& 0x01FF01FF
       else BitVec.ofNat 32 (e.adminSqSize.toNat + 65536 * e.adminCqSize.toNat)) := by
  cases r with
  | sqBaseLow =>
    obtain ⟨low, high⟩ := append_halves (e.adminSqBase.extractLsb' 32 32) value
    exact ⟨low, high, rfl, rfl, rfl⟩
  | sqBaseHigh =>
    obtain ⟨low, high⟩ := append_halves value (e.adminSqBase.extractLsb' 0 32)
    exact ⟨low, high, rfl, rfl, rfl⟩
  | cqBaseLow =>
    obtain ⟨low, high⟩ := append_halves (e.adminCqBase.extractLsb' 32 32) value
    exact ⟨rfl, rfl, low, high, rfl⟩
  | cqBaseHigh =>
    obtain ⟨low, high⟩ := append_halves value (e.adminCqBase.extractLsb' 0 32)
    exact ⟨rfl, rfl, low, high, rfl⟩
  | sizes => exact ⟨rfl, rfl, rfl, rfl, sizesWord_written value⟩

theorem Engine.withRegister_state (e : Engine) (value : BitVec 32) (r : AdminRegister) :
    (e.withRegister value r).state = e.state ∧ (e.withRegister value r).cause = e.cause ∧
      (e.withRegister value r).lastReset = e.lastReset := by
  cases r <;> exact ⟨rfl, rfl, rfl⟩

/-! ### The halt (R176, R177) -/

theorem State.endHaltIfDone_haltStart (s : State) :
    s.haltStart.endHaltIfDone = if s.port.begun = [] then s.haltStart.haltEnded else s.haltStart := by
  rw [State.endHaltIfDone_eq]
  refine if_congr ⟨fun done => ?_, fun done => ⟨rfl, ?_⟩⟩ rfl rfl
  · exact List.map_eq_nil_iff.1 done.2
  · exact List.map_eq_nil_iff.2 done

/-! ### The statements -/

/-- Settles O58: by the engine state, then by the admin registers. -/
theorem enableChecksTheAdminRings : Obligations.EnableChecksTheAdminRings := by
  rintro s e released rfl
  have answer : exec .enable s = .next s.settle.enable := atEvent_of released
  refine ⟨fun running => ?_, fun halted => ?_⟩
  all_goals rw [answer]
  all_goals unfold State.enable
  · rw [if_pos running]
  · rw [if_neg (not_not.2 halted)]
    exact congrArg Host.Outcome.next (if_congr (Engine.adminValid_iff _) rfl rfl)

/-- Settles O59: register by register. -/
theorem registersAreWrittenAndRead : Obligations.RegistersAreWrittenAndRead := by
  intro s value released
  have writes (r : AdminRegister) : exec (.adminRegisterWrite r value) s = .next (s.settle.adminWrite r value) :=
    atEvent_of (f := fun u => u.adminWrite r value) released
  have status := statusWord_extract s.engine.state.toCode_lt s.engine.cause.toCode_lt s.engine.lastReset.toCode_lt
  obtain ⟨state, cause, last, rest⟩ := status
  refine ⟨fun r running => ?_, fun r halted => ⟨s.settle.engine.withRegister value r, ?_, ?_⟩, fun offset ignored => ?_, ?_, ?_,
    state, cause, last, ⟨rfl, rfl, rfl⟩, rest, sizesWord_masked _ _, rfl, rfl, rfl, rfl, fun offset => s.readRegister_of_above⟩
  · rw [writes]
    exact congrArg Host.Outcome.next (if_neg running)
  · rw [writes]
    exact congrArg Host.Outcome.next (if_pos halted)
  · obtain ⟨state, cause, last⟩ := s.settle.engine.withRegister_state value r
    exact ⟨state.trans halted, cause, last, s.settle.readRegister_withRegister _ value r⟩
  · exact (if_pos ignored).trans (atEvent_of (f := fun u => u) released)
  · show s.engine.state.runBit = 1 ↔ _
    cases s.engine.state <;> simp [EngineState.runBit]
  · show s.engine.state.runBit = 0 ↔ _
    cases s.engine.state <;> simp [EngineState.runBit]

/-- Settles O60: by the engine state, and by what is begun at the port. -/
theorem haltStopsTheEngine : Obligations.HaltStopsTheEngine := by
  intro s t released ht
  obtain rfl : t = s.settle.haltStart := ht
  have halts : exec .halt s = .next s.settle.haltWrite := atEvent_of released
  have ends : exec .haltEnd s = .next s.settle.haltEnd := atEvent_of released
  have begins : s.settle.beginHalt = if s.settle.port.begun = [] then s.settle.haltStart.haltEnded else s.settle.haltStart :=
    s.settle.endHaltIfDone_haltStart
  rw [halts, ends]
  unfold State.haltWrite State.haltEnd
  rw [State.settle_engine]
  refine ⟨fun live => ?_, fun still => ?_, fun halting last => ?_, fun early => ?_⟩
  · rw [← begins]
    rcases live with running | fatal
    · rw [running]
    · rw [fatal]
  · rcases still with halted | halting
    · rw [halted]
    · rw [halting]
  · exact congrArg Host.Outcome.next (if_pos ⟨halting, last⟩)
  · exact congrArg Host.Outcome.next (if_neg fun h => early.elim (fun other => other h.1) fun more => h.2.not_gt more)

end Sys2Proof.Machine
end

section
/-! What the events at a channel leave of its counters, of the other channels and of what the timebase reads (R47, R48, R67, R72, R151). -/

namespace Sys2Proof.Machine

/-! ### The relations -/

/-- A change of a channel leaves its settings, its period counter and its front end, puts no channel in a run, and leaves the divider of one that stays in it. -/
structure Channel.Kept (ch now : Channel) : Prop where
  settings : now.settings = ch.settings
  counter : now.pwm.counter = ch.pwm.counter
  sense : now.sense = ch.sense
  divider : now.isOn = true → ch.isOn = true ∧ now.est.divider = ch.est.divider

/-- What the timebase reads of a completion queue (R151). -/
def CqContext.timing (x : CqContext) : Option (Fin 4) × Nat := (x.vector, x.time)

/-- An event at channel `c` leaves the other channels and what the timebase reads. -/
structure State.AtChannel (c : ChannelId) (s t : State) : Prop where
  others : ∀ j, j ≠ c → t.channel j = s.channel j
  vectors : t.vectors = s.vectors
  timing : ∀ q, (t.cq q).timing = (s.cq q).timing

/-- An event at channel `c` that counts nothing. -/
structure State.Clocked (c : ChannelId) (s t : State) : Prop extends State.AtChannel c s t where
  kept : (s.channel c).Kept (t.channel c)

theorem Channel.Kept.rfl {ch : Channel} : ch.Kept ch := ⟨Eq.refl _, Eq.refl _, Eq.refl _, fun on => ⟨on, Eq.refl _⟩⟩

theorem Channel.Kept.trans {x y z : Channel} (h : x.Kept y) (k : y.Kept z) : x.Kept z where
  settings := k.settings.trans h.settings
  counter := k.counter.trans h.counter
  sense := k.sense.trans h.sense
  divider on := by
    obtain ⟨on', same'⟩ := k.divider on
    obtain ⟨on, same⟩ := h.divider on'
    exact ⟨on, same'.trans same⟩

/-- A channel that has left its run has no divider to keep. -/
theorem Channel.Kept.of_off {ch now : Channel} (settings : now.settings = ch.settings) (counter : now.pwm.counter = ch.pwm.counter)
    (sense : now.sense = ch.sense) (off : now.isOn = false) : ch.Kept now :=
  ⟨settings, counter, sense, fun on => absurd on (ne_true_of_eq_false off)⟩

section
variable {c : ChannelId} {s t u : State}

theorem State.AtChannel.trans (h : State.AtChannel c s t) (k : State.AtChannel c t u) : State.AtChannel c s u where
  others j ne := (k.others j ne).trans (h.others j ne)
  vectors := k.vectors.trans h.vectors
  timing q := (k.timing q).trans (h.timing q)

theorem State.AtChannel.withChannel (now : Channel) : State.AtChannel c s (s.withChannel c now) where
  others j ne := State.withChannel_channel_ne s c now j ne
  vectors := rfl
  timing _ := rfl

end

namespace State.Clocked

variable {c : ChannelId} {s t u : State}

theorem rfl : Clocked c s s := ⟨⟨fun _ _ => Eq.refl _, Eq.refl _, fun _ => Eq.refl _⟩, .rfl⟩

theorem trans (h : Clocked c s t) (k : Clocked c t u) : Clocked c s u where
  toAtChannel := h.toAtChannel.trans k.toAtChannel
  kept := h.kept.trans k.kept

/-- An event that leaves every channel, the vector unit and the timing of every CQ. -/
theorem of_same (channels : ∀ j, t.channel j = s.channel j) (vectors : t.vectors = s.vectors)
    (timing : ∀ q, (t.cq q).timing = (s.cq q).timing) : Clocked c s t :=
  ⟨⟨fun j _ => channels j, vectors, timing⟩, by rw [channels c]; exact .rfl⟩

theorem withChannel {now : Channel} (kept : (s.channel c).Kept now) : Clocked c s (s.withChannel c now) where
  toAtChannel := .withChannel now
  kept := by rwa [State.withChannel_channel_self]

theorem after_channel {now : Channel} (rest : Clocked c (s.withChannel c now) t) (kept : (s.channel c).Kept now) : Clocked c s t :=
  (withChannel kept).trans rest

end State.Clocked

variable (s : State) (c : ChannelId)

/-! ### Completions and offers -/

theorem State.appendRecord_timing (q i : QueueId) (r : CqRecord) : ((s.appendRecord q r).cq i).timing = (s.cq i).timing := by
  rw [State.appendRecord_cq]
  split
  · rename_i same
    rw [same]
    rfl
  · rfl

theorem State.appendRecord_clocked (q : QueueId) (r : CqRecord) : State.Clocked c s (s.appendRecord q r) := by
  refine .of_same (fun j => s.appendRecord_channel q r j) ?_ fun i => s.appendRecord_timing q i r
  obtain ⟨x, p, e⟩ := State.appendRecord_frame s q r
  rw [e]

theorem State.finishSlot_timing (k : SlotId) (status : Status) (detail : Nat) (q : QueueId) :
    ((s.finishSlot k status detail).cq q).timing = (s.cq q).timing := by
  cases slot : s.slot k with
  | working w =>
    rw [State.finishSlot_cq status detail slot]
    split
    · rename_i same
      rw [same]
      rfl
    · rfl
  | free | fetching age sq cq =>
    unfold State.finishSlot
    rw [slot]

theorem State.closeIfDrained_timing (q i : QueueId) : ((s.closeIfDrained q).cq i).timing = (s.cq i).timing := by
  unfold State.closeIfDrained
  split
  · split
    · rfl
    · split
      · exact State.finishSlot_timing _ _ _ _ i
      · rfl
  all_goals rfl

theorem State.complete_clocked (k : SlotId) (status : Status) (detail : Nat) : State.Clocked c s (s.complete k status detail) := by
  refine .of_same (fun j => s.complete_channel k status detail j) ?_ fun q => ?_
  · obtain ⟨y, x, p, sl, e⟩ := State.complete_frame s k status detail
    rw [e]
  · unfold State.complete
    split
    · rw [State.closeIfDrained_timing, State.finishSlot_timing]
    all_goals rfl

theorem State.completeStop_clocked (g : Option Graceful) (status : Status) : State.Clocked c s (s.completeStop g status) := by
  unfold State.completeStop
  split
  · exact s.complete_clocked c _ _ _
  · exact .rfl

theorem State.offerReport_clocked (r : Report) : State.Clocked c s (s.offerReport c r) := by
  have lost (n : Nat) : (s.channel c).Kept ((s.channel c).withLost n) := { Channel.Kept.rfl (ch := s.channel c) with }
  unfold State.offerReport
  split
  · exact .rfl
  · split
    · exact .after_channel (State.appendRecord_clocked _ c _ _) (lost 0)
    · split
      · exact .rfl
      · exact .withChannel (lost _)

theorem State.offerChannelNotice_clocked (cause : FaultCause) : State.Clocked c s (s.offerChannelNotice c cause) := by
  have held (h : Option HeldNotice) : (s.channel c).Kept ((s.channel c).withHeld h) := { Channel.Kept.rfl (ch := s.channel c) with }
  unfold State.offerChannelNotice
  split
  · exact .rfl
  · split
    · exact s.appendRecord_clocked c _ _
    · exact .withChannel (held _)
  · exact .withChannel (held _)

/-! ### Ends of a run, fault entry and advance -/

theorem State.endRun_clocked : State.Clocked c s (s.endRun c) := by
  unfold State.endRun
  dsimp only
  split
  · exact .after_channel (State.complete_clocked _ c _ _ _) (.of_off rfl rfl rfl rfl)
  all_goals exact .withChannel (.of_off rfl rfl rfl rfl)

theorem State.faultChannel_clocked (cause : FaultCause) : State.Clocked c s (s.faultChannel c cause) := by
  unfold State.faultChannel
  dsimp only
  split
  · exact .after_channel (State.complete_clocked _ c _ _ _) (.of_off rfl rfl rfl rfl)
  all_goals exact .withChannel (.of_off rfl rfl rfl rfl)

theorem State.faultEntry_clocked (cause : FaultCause) : State.Clocked c s (s.faultEntry c cause) := by
  unfold State.faultEntry
  split
  · exact ((s.faultChannel_clocked c cause).trans (State.completeStop_clocked _ c _ _)).trans
      (State.offerChannelNotice_clocked _ c cause)
  · exact .rfl

theorem Channel.kept_enter {ch now : Channel} (h : ch.Kept now) (i : StepIx) : ch.Kept (now.enter i) := by
  refine h.trans ?_
  unfold Channel.enter
  split <;> exact ⟨rfl, rfl, rfl, fun on => ⟨on, rfl⟩⟩

theorem Channel.follow_kept (ch : Channel) (r : StepRecord) : ch.Kept (ch.follow r) := by
  rw [Channel.follow_eq_enter]
  refine Channel.kept_enter ?_ _
  exact ⟨rfl, rfl, rfl, fun on => ⟨on, rfl⟩⟩

theorem Channel.swapAtMark_kept (ch : Channel) : ch.Kept ch.swapAtMark := by
  unfold Channel.swapAtMark
  refine Channel.kept_enter ?_ _
  exact ⟨rfl, rfl, rfl, fun on => ⟨on, rfl⟩⟩

theorem State.leaveStep_clocked (r : StepRecord) : State.Clocked c s (s.leaveStep c r) := by
  unfold State.leaveStep
  dsimp only
  split
  · exact (s.endRun_clocked c).trans (State.complete_clocked _ c _ _ _)
  · exact .after_channel (State.complete_clocked _ c _ _ _) (Channel.swapAtMark_kept _)
  all_goals exact .withChannel (Channel.follow_kept _ _)

theorem State.advanceStep_clocked (cause : AdvanceCause) : State.Clocked c s (s.advanceStep c cause) := by
  cases current : (s.channel c).current with
  | none =>
    rw [State.advanceStep_absent s c cause current]
    exact .rfl
  | some r =>
    have left : State.Clocked c s ((s.withChannel c (((s.channel c).seeded r).countMark r)).leaveStep c r) := by
      rw [Channel.countMark_seeded]
      exact .after_channel (State.leaveStep_clocked _ c r) ⟨rfl, rfl, rfl, fun on => ⟨on, rfl⟩⟩
    rw [State.advanceStep_of_current cause current]
    dsimp only
    split
    · exact left.trans (State.offerReport_clocked _ c _)
    · exact left

/-! ### Edges, windows and ticks -/

theorem State.takeEdge_clocked : State.Clocked c s (s.takeEdge c) := by
  have recorded : (s.channel c).Kept (s.channel c).edgeRecorded := ⟨rfl, rfl, rfl, fun on => ⟨on, rfl⟩⟩
  unfold State.takeEdge
  dsimp only
  split
  · exact .after_channel (State.faultEntry_clocked _ c _) ⟨rfl, rfl, rfl, fun on => ⟨on, rfl⟩⟩
  · split
    · exact .after_channel (State.advanceStep_clocked _ c _) recorded
    · exact .withChannel recorded

theorem State.offerEdges_clocked (n : Nat) (edges : List LineId) : State.Clocked c s (State.offerEdges c n edges s) := by
  induction n generalizing s edges with
  | zero => exact .rfl
  | succ n ih =>
    unfold State.offerEdges
    split
    · exact .rfl
    · exact (s.takeEdge_clocked c).trans (ih _ _)

theorem State.forcedAdvance_clocked : State.Clocked c s (s.forcedAdvance c) := by
  unfold State.forcedAdvance
  dsimp only
  split
  · exact .after_channel (State.faultEntry_clocked _ c _) ⟨rfl, rfl, rfl, fun on => ⟨on, rfl⟩⟩
  · exact .after_channel (State.advanceStep_clocked _ c _) ⟨rfl, rfl, rfl, fun on => ⟨on, rfl⟩⟩

theorem State.findBlank_clocked : State.Clocked c s (s.findBlank c) := by
  rw [State.findBlank_eq]
  exact .withChannel ⟨rfl, rfl, rfl, fun on => ⟨on, rfl⟩⟩

theorem State.findWindow_clocked : State.Clocked c s (s.findWindow c) := by
  unfold State.findWindow
  repeat' split
  · exact s.forcedAdvance_clocked c
  · exact s.advanceStep_clocked c _
  · exact s.advanceStep_clocked c _
  · exact s.faultEntry_clocked c _
  · exact .rfl

theorem State.findDeadline_clocked : State.Clocked c s (s.findDeadline c) := by
  unfold State.findDeadline
  split
  · exact (s.endRun_clocked c).trans (State.completeStop_clocked _ c _ _)
  · exact .rfl

theorem State.choice_clocked (n : Nat) : State.Clocked c s { s with choice := n } :=
  .of_same (fun _ => rfl) rfl fun _ => rfl

theorem State.findAll_clocked : State.Clocked c s (s.findAll c) := by
  have found := s.findBlank_clocked c
  unfold State.findAll
  dsimp only
  split
  · have chosen := found.trans (State.choice_clocked _ c ((s.findBlank c).choice + 1))
    split
    · exact (chosen.trans (State.findDeadline_clocked _ c)).trans (State.findWindow_clocked _ c)
    · exact (chosen.trans (State.findWindow_clocked _ c)).trans (State.findDeadline_clocked _ c)
  · exact (found.trans (State.findWindow_clocked _ c)).trans (State.findDeadline_clocked _ c)

theorem Channel.countTick_isOn (ch : Channel) : ch.countTick.isOn = ch.isOn := by
  show ch.seq.state.tick.isOn = ch.seq.state.isOn
  cases ch.seq.state <;> rfl

theorem State.countTick_clocked : State.Clocked c s (s.countTick c) := by
  unfold State.countTick
  dsimp only
  split
  · refine (s.findAll_clocked c).trans (.withChannel ⟨rfl, rfl, rfl, fun on => ?_⟩)
    rw [Channel.countTick_isOn] at on
    exact ⟨on, rfl⟩
  · exact s.findAll_clocked c

/-! ### Settling -/

theorem State.startFetchFrom_timing (q b : QueueId) (k : SlotId) (i : QueueId) :
    ((s.startFetchFrom q b k).cq i).timing = (s.cq i).timing := by
  rw [State.startFetchFrom_eq]
  show (Table.read (s.cqs.write b _) i).timing = _
  rw [Table.read_write]
  split
  · rename_i same
    rw [same]
    rfl
  · rfl

theorem State.startFetch_timing (i : QueueId) : (s.startFetch.cq i).timing = (s.cq i).timing := by
  unfold State.startFetch
  repeat' split
  · exact s.startFetchFrom_timing _ _ _ i
  all_goals rfl

theorem State.settle_clocked : State.Clocked c s s.settle := by
  refine .of_same s.settle_channel ?_ fun i => ?_
  · obtain ⟨sl, x, f, l, n, p, e⟩ := State.settle_frame s
    rw [e]
  · rw [State.settle_eq_startFetch]
    exact s.startFetch_timing i

end Sys2Proof.Machine
end

section
/-! One clock of the engine timebase, CQ by CQ (R151, R152). -/

namespace Sys2Proof.Machine

/-- A fold over the elements of a list, each one met once. -/
theorem foldl_remaining {σ α : Type} {f : σ → α → σ} {P : List α → σ → Prop}
    (step : ∀ (a : α) (rest : List α) (t : σ), a ∉ rest → P (a :: rest) t → P rest (f t a)) {l : List α} (once : l.Nodup)
    {s : σ} (h : P l s) : P [] (l.foldl f s) := by
  induction l generalizing s with
  | nil => exact h
  | cons a rest ih =>
    obtain ⟨new, once⟩ := List.nodup_cons.1 once
    exact ih once (step a rest s new h)

/-! ### One timer -/

namespace VectorUnit

variable (v : VectorUnit) (q : QueueId) (timing : Option (Fin 4) × Nat)

/-- The vector that a CQ signals at its timer's next microsecond, where that one is the last (R151). -/
def expires : Option (Fin 4) :=
  match v.timers.read q with
  | some m => if timing.2 ≤ m + 1 then timing.1 else none
  | none => none

/-- One microsecond at a CQ's timer. -/
def timerTick : VectorUnit :=
  match v.expires q timing with
  | some n => v.signal q n
  | none => { v with timers := v.timers.write q ((v.timers.read q).map fun m => m + 1) }

/-- The timer and the unsignalled count of a CQ. -/
def counters : Option Nat × Nat := (v.timers.read q, v.unsignalled.read q)

/-- The timer and the unsignalled count of a CQ after one microsecond. -/
def countersAfter : Option Nat × Nat :=
  match v.expires q timing with
  | some _ => (none, 0)
  | none => ((v.timers.read q).map fun m => m + 1, v.unsignalled.read q)

variable {v q timing}

theorem expires_eq_some {n : Fin 4} :
    v.expires q timing = some n ↔ ∃ m, v.timers.read q = some m ∧ timing.2 ≤ m + 1 ∧ timing.1 = some n := by
  unfold expires
  cases v.timers.read q with
  | none => simp
  | some m => simp

/-- What a timer does depends on the timer alone. -/
theorem expires_congr {w : VectorUnit} (same : w.counters q = v.counters q) : w.expires q timing = v.expires q timing := by
  have timer : w.timers.read q = v.timers.read q := congrArg Prod.fst same
  unfold expires
  rw [timer]

theorem countersAfter_congr {w : VectorUnit} (same : w.counters q = v.counters q) :
    w.countersAfter q timing = v.countersAfter q timing := by
  have timer : w.timers.read q = v.timers.read q := congrArg Prod.fst same
  have count : w.unsignalled.read q = v.unsignalled.read q := congrArg Prod.snd same
  unfold countersAfter
  rw [expires_congr same, timer, count]

theorem timerTick_counters (i : QueueId) :
    (v.timerTick q timing).counters i = if i = q then v.countersAfter q timing else v.counters i := by
  unfold timerTick countersAfter
  cases v.expires q timing with
  | some n =>
    show ((v.timers.write q none).read i, (v.unsignalled.write q 0).read i) = _
    rw [Table.read_write, Table.read_write]
    split <;> rfl
  | none =>
    show ((v.timers.write q _).read i, v.unsignalled.read i) = _
    rw [Table.read_write]
    split
    · rename_i same
      rw [same]
    · rfl

theorem timerTick_timebase : (v.timerTick q timing).timebase = v.timebase := by
  unfold timerTick
  split <;> rfl

theorem timerTick_mask : (v.timerTick q timing).mask = v.mask := by
  unfold timerTick
  split <;> rfl

theorem getLsbD_flag (n m : Fin 4) : (1#4 <<< n.val).getLsbD m.val = true ↔ n = m := by
  revert n m
  decide

theorem timerTick_pending (n : Fin 4) :
    (v.timerTick q timing).pending.getLsbD n.val = true ↔ v.pending.getLsbD n.val = true ∨ v.expires q timing = some n := by
  unfold timerTick
  cases v.expires q timing with
  | some m =>
    show (v.pending ||| (1#4 <<< m.val)).getLsbD n.val = true ↔ _
    rw [BitVec.getLsbD_or, Bool.or_eq_true, getLsbD_flag, Option.some.injEq]
  | none => simp

end VectorUnit

theorem State.expireTimer_of_vector {s : State} {q : QueueId} {m : Nat} {n : Fin 4} (runs : s.vectors.timers.read q = some m)
    (named : (s.cq q).vector = some n) : s.expireTimer q = s.withVectors (s.vectors.signal q n) := by
  unfold State.expireTimer
  rw [runs, named]

theorem State.expireTimer_of_no_vector {s : State} {q : QueueId} (unnamed : (s.cq q).vector = none) : s.expireTimer q = s := by
  unfold State.expireTimer
  rw [unnamed]
  cases s.vectors.timers.read q <;> rfl

theorem State.timerTick_eq (s : State) (q : QueueId) :
    s.timerTick q = s.withVectors (s.vectors.timerTick q (s.cq q).timing) := by
  unfold State.timerTick VectorUnit.timerTick VectorUnit.expires CqContext.timing
  cases timer : s.vectors.timers.read q with
  | none =>
    show s = s.withVectors { s.vectors with timers := s.vectors.timers.write q none }
    rw [← timer, Table.write_read_self]
    rfl
  | some m =>
    dsimp only
    have runs : (s.vectors.timers.write q (some (m + 1))).read q = some (m + 1) := Table.read_write_self _ _ _
    split
    · cases vector : (s.cq q).vector with
      | none => exact State.expireTimer_of_no_vector vector
      | some n =>
        refine (State.expireTimer_of_vector (s := s.withVectors { s.vectors with timers := s.vectors.timers.write q (some (m + 1)) })
          runs vector).trans ?_
        exact congrArg (fun timers => s.withVectors { s.vectors.signal q n with timers })
          (Table.write_write s.vectors.timers q (some (m + 1)) none)
    · rfl

/-! ### All timers -/

/-- One clock of the engine timebase at the vector unit. -/
def VectorUnit.timebaseClock (v : VectorUnit) (timing : QueueId → Option (Fin 4) × Nat) : VectorUnit :=
  if v.timebase + 1 < 40 then { v with timebase := v.timebase + 1 }
  else (List.finRange 8).foldl (fun w q => w.timerTick q (timing q)) { v with timebase := 0 }

theorem State.foldl_timerTick (l : List QueueId) (s : State) :
    l.foldl State.timerTick s = s.withVectors (l.foldl (fun w q => w.timerTick q (s.cq q).timing) s.vectors) := by
  induction l generalizing s with
  | nil => rfl
  | cons q rest ih =>
    rw [List.foldl_cons, ih, State.timerTick_eq]
    rfl

theorem State.timebaseClock_eq (s : State) :
    s.timebaseClock = s.withVectors (s.vectors.timebaseClock fun q => (s.cq q).timing) := by
  unfold State.timebaseClock VectorUnit.timebaseClock Config.clocksPerMicrosecond
  split
  · rfl
  · rw [State.foldl_timerTick]
    rfl

/-- A vector unit amid a microsecond, the timers of `rest` not yet counted. -/
structure VectorUnit.Ticking (v : VectorUnit) (timing : QueueId → Option (Fin 4) × Nat) (rest : List QueueId) (w : VectorUnit) : Prop where
  timebase : w.timebase = 0
  mask : w.mask = v.mask
  counters : ∀ q, w.counters q = if q ∈ rest then v.counters q else v.countersAfter q (timing q)
  pending : ∀ n : Fin 4, w.pending.getLsbD n.val = true ↔
    v.pending.getLsbD n.val = true ∨ ∃ q, q ∉ rest ∧ v.expires q (timing q) = some n

theorem VectorUnit.Ticking.timerTick {v w : VectorUnit} {timing : QueueId → Option (Fin 4) × Nat} {q : QueueId} {rest : List QueueId}
    (new : q ∉ rest) (h : v.Ticking timing (q :: rest) w) : v.Ticking timing rest (w.timerTick q (timing q)) where
  timebase := VectorUnit.timerTick_timebase.trans h.timebase
  mask := VectorUnit.timerTick_mask.trans h.mask
  counters i := by
    rw [VectorUnit.timerTick_counters]
    split
    · rename_i same
      have still : w.counters q = v.counters q := (h.counters q).trans (if_pos List.mem_cons_self)
      rw [same, if_neg new, VectorUnit.countersAfter_congr still]
    · rename_i other
      rw [h.counters i]
      simp [other]
  pending n := by
    have still : w.counters q = v.counters q := (h.counters q).trans (if_pos List.mem_cons_self)
    rw [VectorUnit.timerTick_pending, h.pending, VectorUnit.expires_congr still]
    constructor
    · rintro ((before | ⟨i, counted, signals⟩) | signals)
      · exact .inl before
      · exact .inr ⟨i, fun mem => counted (List.mem_cons_of_mem q mem), signals⟩
      · exact .inr ⟨q, new, signals⟩
    · rintro (before | ⟨i, counted, signals⟩)
      · exact .inl (.inl before)
      · by_cases same : i = q
        · exact .inr (same ▸ signals)
        · exact .inl (.inr ⟨i, by simp [same, counted], signals⟩)

/-- At the end of a microsecond every timer has counted one (R151). -/
theorem VectorUnit.timebaseClock_ticking {v : VectorUnit} {timing : QueueId → Option (Fin 4) × Nat} (last : 40 ≤ v.timebase + 1) :
    v.Ticking timing [] (v.timebaseClock timing) := by
  have all (q : QueueId) : q ∈ List.finRange 8 := List.mem_finRange q
  unfold VectorUnit.timebaseClock
  rw [if_neg (by omega)]
  refine foldl_remaining (fun q rest w new h => VectorUnit.Ticking.timerTick new h) (List.nodup_finRange 8) ?_
  exact ⟨rfl, rfl, fun q => (if_pos (all q)).symm, fun n => ⟨.inl, fun h => h.resolve_right fun ⟨q, counted, _⟩ => counted (all q)⟩⟩

end Sys2Proof.Machine
end

section
/-! One system clock, event by event in any order: every counter counts once (R48, R67, R72, R151). -/

namespace Sys2Proof.Machine

/-! ### The order of the events -/

theorem mem_firsts {e : ClockEvent} {l seen : List ClockEvent} : e ∈ firsts seen l ↔ e ∈ l ∧ e ∉ seen := by
  induction l generalizing seen with
  | nil => simp [firsts]
  | cons a rest ih =>
    unfold firsts
    split
    · rename_i old
      have old : a ∈ seen := by simpa using old
      rw [ih]
      grind
    · rename_i new
      have new : a ∉ seen := by simpa using new
      rw [List.mem_cons, ih]
      grind

theorem firsts_nodup (l seen : List ClockEvent) : (firsts seen l).Nodup := by
  induction l generalizing seen with
  | nil => exact List.nodup_nil
  | cons a rest ih =>
    unfold firsts
    split
    · exact ih _
    · exact List.nodup_cons.2 ⟨fun mem => (mem_firsts.1 mem).2 List.mem_cons_self, ih _⟩

theorem mem_clockEvents (e : ClockEvent) : e ∈ clockEvents := by
  unfold clockEvents
  cases e <;> simp

/-- Every event of a clock stands in its order, whatever the order. -/
theorem mem_orderedBy (order : List ClockEvent) (e : ClockEvent) : e ∈ orderedBy order :=
  mem_firsts.2 ⟨List.mem_append_right _ (mem_clockEvents e), List.not_mem_nil⟩

/-! ### What one event counts -/

/-- The period counter after one clock (R67). -/
def Channel.nextCounter (ch : Channel) : Nat :=
  if ch.pwm.counter + 1 < ch.settings.period then ch.pwm.counter + 1 else 0

/-- The tick divider after one clock (R48). -/
def Channel.nextDivider (ch : Channel) (n : Nat) : Nat := if n + 1 < 2 ^ ch.settings.prescale then n + 1 else 0

/-- What an event of the clock that makes `y` of `x` counts at channel `c`. -/
structure Channel.Counts (c : ChannelId) (e : ClockEvent) (x y : Channel) : Prop where
  settings : y.settings = x.settings
  counter : y.pwm.counter = if e = .pwmClock c then x.nextCounter else x.pwm.counter
  sense : y.sense = if e = .senseSample c then (x.sampled x.sense.pins).sense else x.sense
  divider : y.isOn = true → x.isOn = true ∧ ∀ n, x.est.divider = some n →
    y.est.divider = some (if e = .dividerClock c then x.nextDivider n else n)

theorem Channel.Kept.counts {x y : Channel} (h : x.Kept y) {c : ChannelId} {e : ClockEvent}
    (no_pwm : e ≠ .pwmClock c) (no_sample : e ≠ .senseSample c) (no_divider : e ≠ .dividerClock c) : x.Counts c e y where
  settings := h.settings
  counter := h.counter.trans (if_neg no_pwm).symm
  sense := h.sense.trans (if_neg no_sample).symm
  divider on := by
    obtain ⟨on, same⟩ := h.divider on
    exact ⟨on, fun n count => by rw [same, count, if_neg no_divider]⟩

variable (s : State) (c : ChannelId)

theorem State.tripSampled_clocked : State.Clocked c s (s.tripSampled c) := by
  unfold State.tripSampled
  split
  · exact s.faultEntry_clocked c _
  · exact .rfl

theorem State.sampleSense_atChannel (sample : Table 3 Level) : State.AtChannel c s (s.sampleSense c sample) :=
  (State.AtChannel.withChannel _).trans (State.offerEdges_clocked _ c _ _).toAtChannel

theorem State.dividerClock_atChannel : State.AtChannel c s (s.dividerClock c) := by
  unfold State.dividerClock
  split
  · exact (State.Clocked.rfl (s := s)).toAtChannel
  · split
    · exact .withChannel _
    · exact (State.AtChannel.withChannel _).trans
        (((State.countTick_clocked _ c).trans (State.settle_clocked _ c)).trans (State.findAll_clocked _ c)).toAtChannel

theorem Channel.pwmClock_counts (x : Channel) : x.Counts c (.pwmClock c) x.pwmClock := by
  unfold Channel.pwmClock
  split
  · rename_i below
    exact ⟨rfl, ((if_pos rfl).trans (if_pos below)).symm, rfl, fun on => ⟨on, fun n count => count⟩⟩
  · rename_i last
    exact ⟨rfl, ((if_pos rfl).trans (if_neg last)).symm, rfl, fun on => ⟨on, fun n count => count⟩⟩

theorem State.sampleSense_counts :
    (s.channel c).Counts c (.senseSample c) ((s.sampleSense c (s.channel c).sense.pins).channel c) := by
  have offered : ((s.channel c).sampled (s.channel c).sense.pins).Kept ((s.sampleSense c (s.channel c).sense.pins).channel c) := by
    have kept := (State.offerEdges_clocked (s.withChannel c ((s.channel c).sampled (s.channel c).sense.pins)) c 3
      ((s.channel c).edgesOf (s.channel c).sense.pins)).kept
    rwa [State.withChannel_channel_self] at kept
  refine ⟨offered.settings, offered.counter, offered.sense.trans (if_pos rfl).symm, fun on => ?_⟩
  obtain ⟨on, same⟩ := offered.divider on
  exact ⟨on, fun n count => same.trans count⟩

theorem State.dividerClock_counts : (s.channel c).Counts c (.dividerClock c) ((s.dividerClock c).channel c) := by
  unfold State.dividerClock
  cases divider : (s.channel c).est.divider with
  | none => exact ⟨rfl, rfl, rfl, fun on => ⟨on, fun n count => absurd (divider.symm.trans count) nofun⟩⟩
  | some n =>
    have counted {m : Nat} (next : m = (s.channel c).nextDivider n) (k : Nat) (count : (s.channel c).est.divider = some k) :
        some m = some (if ClockEvent.dividerClock c = .dividerClock c then (s.channel c).nextDivider k else k) := by
      rw [divider] at count
      rw [if_pos rfl, next, Option.some.inj count]
    dsimp only
    split
    · rename_i below
      rw [State.withChannel_channel_self]
      exact ⟨rfl, rfl, rfl, fun on => ⟨on, counted (if_pos below).symm⟩⟩
    · rename_i last
      have found := (((State.countTick_clocked (s.withChannel c ((s.channel c).withDivider 0)) c).trans
        (State.settle_clocked _ c)).trans (State.findAll_clocked _ c)).kept
      rw [State.withChannel_channel_self] at found
      refine ⟨found.settings, found.counter, found.sense, fun on => ?_⟩
      obtain ⟨on, same⟩ := found.divider on
      exact ⟨on, fun k count => same.trans (counted (if_neg last).symm k count)⟩

theorem State.clockEvent_counts (e : ClockEvent) : (s.channel c).Counts c e ((s.clockEvent e).channel c) := by
  have elsewhere {j : ChannelId} {t : State} (other : c ≠ j) (h : State.AtChannel j s t) : (s.channel c).Kept (t.channel c) := by
    rw [h.others c other]
    exact .rfl
  cases e with
  | tripSample j =>
    by_cases same : c = j
    · exact same ▸ (s.tripSampled_clocked c).kept.counts nofun nofun nofun
    · exact (elsewhere same (s.tripSampled_clocked j).toAtChannel).counts nofun nofun nofun
  | senseSample j =>
    by_cases same : c = j
    · exact same ▸ s.sampleSense_counts c
    · exact (elsewhere same (s.sampleSense_atChannel j _)).counts nofun (fun h => same (by cases h; rfl)) nofun
  | pwmClock j =>
    by_cases same : c = j
    · subst same
      show (s.channel c).Counts c _ ((s.withChannel c (s.channel c).pwmClock).channel c)
      rw [State.withChannel_channel_self]
      exact Channel.pwmClock_counts c _
    · exact (elsewhere same (.withChannel _)).counts (fun h => same (by cases h; rfl)) nofun nofun
  | dividerClock j =>
    by_cases same : c = j
    · exact same ▸ s.dividerClock_counts c
    · exact (elsewhere same (s.dividerClock_atChannel j)).counts nofun nofun (fun h => same (by cases h; rfl))
  | timebase =>
    show (s.channel c).Counts c _ (s.timebaseClock.channel c)
    rw [State.timebaseClock_eq]
    exact Channel.Kept.rfl.counts nofun nofun nofun

/-! ### A channel amid a clock -/

/-- A channel amid a clock that found it as `ch`, the events of `rest` not yet taken. -/
structure Channel.During (c : ChannelId) (ch : Channel) (rest : List ClockEvent) (x : Channel) : Prop where
  settings : x.settings = ch.settings
  counter : x.pwm.counter = if .pwmClock c ∈ rest then ch.pwm.counter else ch.nextCounter
  sense : x.sense = if .senseSample c ∈ rest then ch.sense else (ch.sampled ch.sense.pins).sense
  divider : x.isOn = true → ch.isOn = true ∧ ∀ n, ch.est.divider = some n →
    x.est.divider = some (if .dividerClock c ∈ rest then n else ch.nextDivider n)

/-- What is counted at event `k` alone is counted where `k` no longer stands among the rest. -/
theorem counted_once {α : Type} {k e : ClockEvent} {rest : List ClockEvent} {before after x y : α} (new : e ∉ rest)
    (was : x = if k ∈ e :: rest then before else after) (now : y = if e = k then after else x) :
    y = if k ∈ rest then before else after := by
  subst was now
  grind

theorem Channel.During.event {c : ChannelId} {ch x y : Channel} {e : ClockEvent} {rest : List ClockEvent} (new : e ∉ rest)
    (h : ch.During c (e :: rest) x) (k : x.Counts c e y) : ch.During c rest y where
  settings := k.settings.trans h.settings
  counter := by
    refine counted_once new h.counter ?_
    rw [k.counter]
    split
    · rename_i same
      have still : x.pwm.counter = ch.pwm.counter := h.counter.trans (if_pos (same ▸ List.mem_cons_self))
      unfold Channel.nextCounter
      rw [still, h.settings]
    · rfl
  sense := by
    refine counted_once new h.sense ?_
    rw [k.sense]
    split
    · rename_i same
      have still : x.sense = ch.sense := h.sense.trans (if_pos (same ▸ List.mem_cons_self))
      unfold Channel.sampled
      rw [still, h.settings]
    · rfl
  divider on := by
    obtain ⟨x_on, counted⟩ := k.divider on
    obtain ⟨ch_on, divider⟩ := h.divider x_on
    refine ⟨ch_on, fun n count => (counted _ (divider n count)).trans (congrArg some ?_)⟩
    refine counted_once new rfl ?_
    split
    · rename_i same
      rw [if_pos (same ▸ List.mem_cons_self)]
      unfold Channel.nextDivider
      rw [h.settings]
    · rfl

end Sys2Proof.Machine
end

section
/-! A channel that a clock leaves in its step, and what every counter holds at the clock's end (R48, R67, R72, R151). -/

namespace Sys2Proof.Machine

/-! ### What a run goes on -/

/-- What the windows, the deadline and the edges a step awaits depend on. -/
def Channel.run (ch : Channel) : StepStore × Sequencer × Estimator := (ch.store, ch.seq, ch.est)

/-- The blank end is found where it is due (R51). -/
def Channel.found (ch : Channel) : Channel :=
  { ch with seq := { ch.seq with blankFound := ch.seq.blankFound || ch.blankDue } }

/-- A channel after its tick divider's clock, where no window and no deadline ends its step. -/
def Channel.clocked (ch : Channel) (n : Nat) : Channel :=
  if n + 1 < ch.settings.clocksPerTick then ch.withDivider (n + 1) else (ch.withDivider 0).found.countTick.found

/-- Neither a window nor the deadline has been reached, before the tick or by it. -/
structure Channel.GoesOn (ch : Channel) : Prop where
  window : ch.windowDue = false
  deadline : ch.deadlineDue = false
  next_window : (ch.withDivider 0).found.countTick.windowDue = false
  next_deadline : (ch.withDivider 0).found.countTick.deadlineDue = false

/-- A channel in whose clock no trip, no edge, no window and no deadline ends the step. -/
structure Channel.StaysInStep (ch : Channel) (n : Nat) : Prop where
  on : ch.isOn = true
  divider : ch.est.divider = some n
  untripped : ch.sense.tripLine ≠ ch.settings.tripLevel
  unawaited : ∀ l, ch.makesEdge ch.sense.pins l →
    ¬ch.awaits l (ch.sense.pins.read l) ∧ ¬(ch.clocked n).awaits l (ch.sense.pins.read l)
  goes_on : 2 ^ ch.settings.prescale ≤ n + 1 → ch.GoesOn

section
variable {x y : Channel} (same : x.run = y.run)
include same

theorem Channel.eq_of_run : x = { y with legs := x.legs, pwm := x.pwm, sense := x.sense, settings := x.settings } := by
  obtain ⟨seq, store, est, legs, pwm, sense, settings⟩ := x
  obtain ⟨seq', store', est', legs', pwm', sense', settings'⟩ := y
  cases same
  rfl

theorem Channel.awaits_congr {l : LineId} {level : Level} (h : x.awaits l level) : y.awaits l level := by
  rw [Channel.eq_of_run same] at h
  exact h

theorem Channel.GoesOn.congr (h : y.GoesOn) : x.GoesOn := by
  rw [Channel.eq_of_run same]
  exact ⟨h.window, h.deadline, h.next_window, h.next_deadline⟩

theorem Channel.clocked_congr (settings : x.settings = y.settings) (n : Nat) : (x.clocked n).run = (y.clocked n).run := by
  unfold Channel.clocked
  rw [settings, Channel.eq_of_run same]
  split <;> rfl

end

variable {s : State} {c : ChannelId}

/-! ### One event at a calm channel -/

theorem State.findAll_of_no_end (window : (s.channel c).windowDue = false) (deadline : (s.channel c).deadlineDue = false) :
    s.findAll c = s.withChannel c (s.channel c).found := by
  have same : ((s.findBlank c).channel c).windowDue = false ∧ ((s.findBlank c).channel c).deadlineDue = false := by
    rw [State.findBlank_eq, State.withChannel_channel_self]
    exact ⟨window, deadline⟩
  rw [State.findAll_of_not_both (by simp [window]), State.findWindow_of_not_due same.1, State.findDeadline_of_not_due same.2,
    State.findBlank_eq]
  rfl

theorem State.dividerClock_of_goes_on {n : Nat} (on : (s.channel c).isOn = true) (divider : (s.channel c).est.divider = some n)
    (goes_on : 2 ^ (s.channel c).settings.prescale ≤ n + 1 → (s.channel c).GoesOn) :
    (s.dividerClock c).channel c = (s.channel c).clocked n := by
  unfold State.dividerClock Channel.clocked
  rw [divider]
  dsimp only
  split
  · rw [State.withChannel_channel_self]
  · rename_i last
    obtain ⟨window, deadline, next_window, next_deadline⟩ := goes_on (not_lt.1 last)
    have counted : (s.withChannel c ((s.channel c).withDivider 0)).countTick c =
        s.withChannel c ((s.channel c).withDivider 0).found.countTick := by
      unfold State.countTick
      rw [State.findAll_of_no_end]
      · simp only [State.withChannel_channel_self]
        rw [if_pos (by exact on)]
        simp [State.withChannel]
      · rw [State.withChannel_channel_self]
        exact window
      · rw [State.withChannel_channel_self]
        exact deadline
    rw [counted, State.findAll_of_no_end, State.withChannel_channel_self, State.settle_channel, State.withChannel_channel_self]
    · rw [State.settle_channel, State.withChannel_channel_self]
      exact next_window
    · rw [State.settle_channel, State.withChannel_channel_self]
      exact next_deadline

theorem State.sampleSense_of_none_awaited {sample : Table 3 Level}
    (unawaited : ∀ l, (s.channel c).makesEdge sample l → ¬(s.channel c).awaits l (sample.read l)) :
    s.sampleSense c sample = s.withChannel c ((s.channel c).sampled sample) := by
  unfold State.sampleSense
  refine State.offerEdges_of_none_awaited (sample := sample) (fun l mem => ?_) 3 fun l mem => ?_
  · obtain ⟨differs, full⟩ := (Channel.mem_edgesOf _ _ _).1 mem
    rw [State.withChannel_channel_self]
    exact ((Channel.sampled_after _ sample).edge l differs full).1
  · rw [State.withChannel_channel_self]
    exact unawaited l ((Channel.mem_edgesOf _ _ _).1 mem)

/-- No event but its divider's clock changes what the run of a calm channel goes on, and that clock counts. -/
theorem State.clockEvent_run {ch : Channel} {n : Nat} {e : ClockEvent} {rest : List ClockEvent} (new : e ∉ rest)
    (calm : ch.StaysInStep n) (during : ch.During c (e :: rest) (s.channel c))
    (run : (s.channel c).run = if .dividerClock c ∈ e :: rest then ch.run else (ch.clocked n).run) :
    ((s.clockEvent e).channel c).run = if .dividerClock c ∈ rest then ch.run else (ch.clocked n).run := by
  refine counted_once new run ?_
  have elsewhere {j : ChannelId} {t : State} (other : c ≠ j) (h : State.AtChannel j s t) : (t.channel c).run = (s.channel c).run :=
    congrArg Channel.run (h.others c other)
  cases e with
  | tripSample j =>
    refine Eq.trans ?_ (if_neg nofun).symm
    by_cases same : c = j
    · subst same
      have line : (s.channel c).sense.tripLine = ch.sense.tripLine := by
        rw [during.sense]
        split <;> rfl
      have quiet : ¬(s.channel c).tripActive = true := by
        rw [Channel.tripActive_iff, line, during.settings]
        exact calm.untripped
      exact congrArg (fun t => (State.channel t c).run) (if_neg quiet)
    · exact elsewhere same (s.tripSampled_clocked j).toAtChannel
  | senseSample j =>
    refine Eq.trans ?_ (if_neg nofun).symm
    by_cases same : c = j
    · subst same
      have sense : (s.channel c).sense = ch.sense := during.sense.trans (if_pos List.mem_cons_self)
      have none_awaited : ∀ l, (s.channel c).makesEdge (s.channel c).sense.pins l →
          ¬(s.channel c).awaits l ((s.channel c).sense.pins.read l) := by
        unfold Channel.makesEdge
        rw [sense, during.settings]
        intro l edge awaits
        obtain ⟨unawaited, unawaited'⟩ := calm.unawaited l edge
        split at run
        · exact unawaited (Channel.awaits_congr run awaits)
        · exact unawaited' (Channel.awaits_congr run awaits)
      show ((s.sampleSense c _).channel c).run = _
      rw [State.sampleSense_of_none_awaited none_awaited, State.withChannel_channel_self]
      rfl
    · exact elsewhere same (s.sampleSense_atChannel j _)
  | pwmClock j =>
    refine Eq.trans ?_ (if_neg nofun).symm
    by_cases same : c = j
    · subst same
      show ((s.withChannel c (s.channel c).pwmClock).channel c).run = _
      rw [State.withChannel_channel_self]
      unfold Channel.pwmClock
      split <;> rfl
    · exact elsewhere same (.withChannel _)
  | dividerClock j =>
    by_cases same : c = j
    · subst same
      have still : (s.channel c).run = ch.run := run.trans (if_pos List.mem_cons_self)
      have divider : (s.channel c).est.divider = some n := (congrArg (fun r => r.2.2.divider) still).trans calm.divider
      have on : (s.channel c).isOn = true := (congrArg (fun r => r.2.1.state.isOn) still).trans calm.on
      rw [if_pos rfl]
      show ((s.dividerClock c).channel c).run = _
      rw [State.dividerClock_of_goes_on on divider]
      · exact Channel.clocked_congr still during.settings n
      · rw [during.settings]
        exact fun last => (calm.goes_on last).congr still
    · exact (elsewhere same (s.dividerClock_atChannel j)).trans (if_neg fun h => same (by cases h; rfl)).symm
  | timebase =>
    refine Eq.trans ?_ (if_neg nofun).symm
    show (s.timebaseClock.channel c).run = _
    rw [State.timebaseClock_eq]
    rfl

/-! ### The whole clock -/

/-- A state amid a clock that began in `s`, the events of `rest` not yet taken. -/
structure State.Clocking (s : State) (rest : List ClockEvent) (t : State) : Prop where
  timing : ∀ q, (t.cq q).timing = (s.cq q).timing
  vectors : t.vectors = if .timebase ∈ rest then s.vectors else s.vectors.timebaseClock fun q => (s.cq q).timing
  channels : ∀ c, (s.channel c).During c rest (t.channel c)
  calm : ∀ c n, (s.channel c).StaysInStep n →
    (t.channel c).run = if .dividerClock c ∈ rest then (s.channel c).run else ((s.channel c).clocked n).run

theorem State.Clocking.settle {s t : State} {rest : List ClockEvent} (h : s.Clocking rest t) : s.Clocking rest t.settle where
  timing q := ((t.settle_clocked 0).timing q).trans (h.timing q)
  vectors := (t.settle_clocked 0).vectors.trans h.vectors
  channels c := by
    rw [State.settle_channel]
    exact h.channels c
  calm c n calm := by
    rw [State.settle_channel]
    exact h.calm c n calm

/-- Only the timebase touches the vector unit, and no event touches what it reads of the CQs. -/
theorem State.clockEvent_vectors (s : State) (e : ClockEvent) :
    (∀ q, ((s.clockEvent e).cq q).timing = (s.cq q).timing) ∧
      (s.clockEvent e).vectors = if e = .timebase then s.vectors.timebaseClock fun q => (s.cq q).timing else s.vectors := by
  have at_channel {j : ChannelId} {t : State} (other : e ≠ .timebase) (h : State.AtChannel j s t) :
      (∀ q, (t.cq q).timing = (s.cq q).timing) ∧
        t.vectors = if e = .timebase then s.vectors.timebaseClock fun q => (s.cq q).timing else s.vectors :=
    ⟨h.timing, h.vectors.trans (if_neg other).symm⟩
  cases e with
  | tripSample j => exact at_channel nofun (s.tripSampled_clocked j).toAtChannel
  | senseSample j => exact at_channel nofun (s.sampleSense_atChannel j _)
  | pwmClock j => exact at_channel nofun (State.AtChannel.withChannel (c := j) _)
  | dividerClock j => exact at_channel nofun (s.dividerClock_atChannel j)
  | timebase =>
    show (∀ q, (s.timebaseClock.cq q).timing = _) ∧ s.timebaseClock.vectors = _
    rw [State.timebaseClock_eq]
    exact ⟨fun q => rfl, (if_pos rfl).symm⟩

theorem State.Clocking.event {s t : State} {e : ClockEvent} {rest : List ClockEvent} (new : e ∉ rest)
    (h : s.Clocking (e :: rest) t) : s.Clocking rest (t.clockEvent e) where
  timing q := ((t.clockEvent_vectors e).1 q).trans (h.timing q)
  vectors := by
    refine counted_once new h.vectors ?_
    rw [(t.clockEvent_vectors e).2]
    split
    · rename_i same
      have still : t.vectors = s.vectors := h.vectors.trans (if_pos (same ▸ List.mem_cons_self))
      rw [still, funext h.timing]
    · rfl
  channels c := (h.channels c).event new (t.clockEvent_counts c e)
  calm c n calm := State.clockEvent_run new calm (h.channels c) (h.calm c n calm)

theorem State.clock_clocking {s : State} (released : s.resetPin = false) : s.Clocking [] s.clock := by
  have all := mem_orderedBy (Config.clockOrder s.choice)
  unfold State.clock
  rw [if_neg (ne_true_of_eq_false released)]
  refine foldl_remaining (fun e rest t new h => h.settle.event new) (firsts_nodup _ _) ?_
  refine ⟨fun q => rfl, (if_pos (all _)).symm, fun c => ⟨rfl, (if_pos (all _)).symm, (if_pos (all _)).symm, fun on => ⟨on, ?_⟩⟩,
    fun c n calm => (if_pos (all _)).symm⟩
  exact fun n count => count.trans (congrArg some (if_pos (all _)).symm)

/-! ### What the statement says of a calm channel -/

theorem Channel.countTick_restarted {ch : Channel} (on : ch.isOn = true) :
    { ch.countTick with est := { ch.countTick.est with divider := ch.est.divider.map fun _ => 0 } } = ch.ticked := by
  unfold Channel.ticked
  rw [if_pos on]
  unfold Channel.countTick nextTimer nextSpan
  cases ch.seq.state with
  | stopping g =>
    simp only [ChannelState.tick, Graceful.tick]
    split <;> rfl
  | idle | running | fault x => rfl

theorem Channel.clocked_below {ch : Channel} {n : Nat} (below : n + 1 < 2 ^ ch.settings.prescale) :
    ch.clocked n = ch.withDivider (n + 1) := if_pos below

theorem Channel.clocked_last {ch : Channel} {n : Nat} (last : 2 ^ ch.settings.prescale ≤ n + 1) :
    ch.clocked n = (ch.withDivider 0).found.countTick.found := if_neg (not_lt.2 last)

/-- A tick that reaches no blank end changes nothing of what the step awaits (R28). -/
theorem Channel.awaits_of_found {ch : Channel} {l : LineId} {level : Level} (before : ch.blankDue = false)
    (after : ch.countTick.blankDue = false) (h : (ch.withDivider 0).found.countTick.found.awaits l level) : ch.awaits l level := by
  have found : (ch.withDivider 0).found = ch.withDivider 0 := by
    unfold Channel.found
    rw [show (ch.withDivider 0).blankDue = false from before, Bool.or_false]
  have found' : (ch.withDivider 0).countTick.found = (ch.withDivider 0).countTick := by
    unfold Channel.found
    rw [show (ch.withDivider 0).countTick.blankDue = false from after, Bool.or_false]
  rw [found, found'] at h
  obtain ⟨on, blank, edge, step⟩ := h
  rw [Channel.countTick_isOn] at on
  exact ⟨on, blank, edge, step⟩

section
variable {ch : Channel} {n : Nat} (on : ch.isOn = true) (divider : ch.est.divider = some n)
  (untripped : ch.sense.tripLine ≠ ch.settings.tripLevel)
  (unawaited : ∀ l, ch.makesEdge ch.sense.pins l → ¬ch.awaits l (ch.sense.pins.read l))
include on divider untripped unawaited

theorem Channel.calm_below (below : n + 1 < 2 ^ ch.settings.prescale) : ch.StaysInStep n where
  on := on
  divider := divider
  untripped := untripped
  unawaited l edge := ⟨unawaited l edge, by rw [Channel.clocked_below below]; exact unawaited l edge⟩
  goes_on last := absurd below (not_lt.2 last)

theorem Channel.calm_last (last : 2 ^ ch.settings.prescale ≤ n + 1)
    (blank : ∀ l, ch.makesEdge ch.sense.pins l → ch.blankDue = false ∧ ch.ticked.blankDue = false)
    (window : ch.windowDue = false) (deadline : ch.deadlineDue = false) (next_window : ch.ticked.windowDue = false)
    (next_deadline : ch.ticked.deadlineDue = false) : ch.StaysInStep n where
  on := on
  divider := divider
  untripped := untripped
  unawaited l edge := by
    refine ⟨unawaited l edge, fun awaits => unawaited l edge ?_⟩
    obtain ⟨before, after⟩ := blank l edge
    rw [← Channel.countTick_restarted on] at after
    rw [Channel.clocked_last last] at awaits
    exact Channel.awaits_of_found before after awaits
  goes_on _ := by
    rw [← Channel.countTick_restarted on] at next_window next_deadline
    exact ⟨window, deadline, next_window, next_deadline⟩

end

/-- Settles O4: the events of one clock, each taken once in whatever order, count what they count by themselves. -/
theorem clockCountsPwmPeriods : Obligations.ClockCountsPwmPeriods := by
  intro s empty
  have passes : step s = .next s.clock := by
    unfold step
    rw [empty]
  refine ⟨fun held => ?_, fun released => ⟨s.clock, passes, ?_⟩⟩
  · rw [passes]
    exact congrArg _ (if_pos held)
  have none_left (e : ClockEvent) : e ∉ ([] : List ClockEvent) := List.not_mem_nil
  obtain ⟨timing, vectors, channels, calm⟩ := State.clock_clocking released
  rw [if_neg (none_left _)] at vectors
  refine ⟨?_, fun below => vectors.trans (if_pos below), fun last => ?_⟩
  · rintro c ch now rfl rfl
    obtain ⟨settings, counter, sense, divider⟩ := channels c
    rw [if_neg (none_left _)] at counter sense
    have ran {n : Nat} (h : (s.channel c).StaysInStep n) : (s.clock.channel c).run = ((s.channel c).clocked n).run :=
      (calm c n h).trans (if_neg (none_left _))
    refine ⟨counter, sense ▸ Channel.sampled_after _ _, fun n count on => ?_, fun n on count untripped unawaited => ⟨fun below => ?_, ?_⟩⟩
    · exact ((divider on).2 n count).trans (congrArg some (if_neg (none_left _)))
    · have run := ran (Channel.calm_below on count untripped unawaited below)
      rw [Channel.clocked_below below] at run
      rw [Channel.eq_of_run run]
      exact ⟨on, rfl, rfl⟩
    · intro last blank window deadline next_window next_deadline
      have run := ran (Channel.calm_last on count untripped unawaited last blank window deadline next_window next_deadline)
      rw [Channel.clocked_last last] at run
      rw [Channel.eq_of_run run]
      exact ⟨(Channel.countTick_isOn _).trans on, rfl, rfl⟩
  · obtain ⟨timebase, mask, counters, pending⟩ := VectorUnit.timebaseClock_ticking (timing := fun q => (s.cq q).timing) last
    rw [← vectors] at timebase mask counters pending
    have counted {q : QueueId} (quiet : s.vectors.expires q (s.cq q).timing = none) :
        s.clock.vectors.counters q = ((s.vectors.timers.read q).map fun m => m + 1, s.vectors.unsignalled.read q) := by
      rw [counters q, if_neg List.not_mem_nil]
      unfold VectorUnit.countersAfter
      rw [quiet]
    have quiet_of {q : QueueId} (h : ∀ m, s.vectors.timers.read q = some m → ¬(s.cq q).time ≤ m + 1) :
        s.vectors.expires q (s.cq q).timing = none :=
      Option.eq_none_iff_forall_ne_some.2 fun n signals => by
        obtain ⟨m, runs, expired, _⟩ := VectorUnit.expires_eq_some.1 signals
        exact h m runs expired
    refine ⟨timebase, mask, fun q stopped => ?_, fun q m runs early => ?_, fun q m n runs expired named => ?_, fun n => ?_⟩
    · have now := counted (quiet_of (q := q) fun m runs => absurd (stopped.symm.trans runs) nofun)
      rw [stopped] at now
      exact Prod.mk.inj now
    · have now := counted (quiet_of (q := q) fun k count => by rw [runs] at count; cases count; omega)
      rw [runs] at now
      exact Prod.mk.inj now
    · have signals : s.vectors.expires q (s.cq q).timing = some n := VectorUnit.expires_eq_some.2 ⟨m, runs, expired, named⟩
      have now := counters q
      rw [if_neg List.not_mem_nil] at now
      unfold VectorUnit.countersAfter at now
      rw [signals] at now
      exact Prod.mk.inj now
    · rw [pending n]
      refine or_congr_right ⟨?_, ?_⟩
      · rintro ⟨q, _, signals⟩
        exact ⟨q, VectorUnit.expires_eq_some.1 signals⟩
      · rintro ⟨q, signals⟩
        exact ⟨q, List.not_mem_nil, VectorUnit.expires_eq_some.2 signals⟩

end Sys2Proof.Machine
end
